-- ==== Sys2Proof/Word.lean ====
section
/-! DEFINITION. The widths of the block's values (R9, R54, R70). -/

namespace Sys2Proof

/-- An 8-bit value: a receive-buffer slot, the byte under construction, a key code (R9, R54). -/
abbrev Byte := BitVec 8

/-- A 16-bit count of 10 µs ticks: a capture value or a pulse width (R9, R54). -/
abbrev Ticks := BitVec 16

/-- One input event word `ev`, 20 bits (R70). -/
abbrev EventWord := BitVec 20

end Sys2Proof
end

