-- ==== Sys2Proof/Config.lean ====
section
/-! DEFINITION. The implementation parameters of R8 and the two values the spec leaves OPEN. -/

namespace Sys2Proof

/-- A window `[MIN, MAX]` of widths, both ends included (R8, D4).
The bounds are numbers, since the spec gives them no width and never computes with them. -/
structure Window where
  min : Nat
  max : Nat
deriving DecidableEq, Repr

/-- `REPEAT_SOURCE` (R8): where a repeat key's command byte comes from. -/
inductive RepeatSource where
  /-- `rxBuf[2]` as it stands. -/
  | rxbuf
  /-- The last checksum-valid command, `lastValidCmd`. -/
  | lastvalid
deriving DecidableEq, Repr

/-- The parameters of R8. No step changes them (R20, R232).
`KEY_BASE` is 8 bits by its type, so R8's `0 <= KEY_BASE <= 255` cannot fail (log entry 6). -/
structure Config where
  /-- `LL_MIN`, `LL_MAX`: leader-low window. -/
  leaderLow : Window
  /-- `LH_MIN`, `LH_MAX`: leader-high (frame) window. -/
  leaderHigh : Window
  /-- `RP_MIN`, `RP_MAX`: repeat-marker high window. -/
  repeatHigh : Window
  /-- `BL_MIN`, `BL_MAX`: bit-low window. -/
  bitLow : Window
  /-- `B0_MIN`, `B0_MAX`: bit-0 window on the low+high total. -/
  bit0 : Window
  /-- `B1_MIN`, `B1_MAX`: bit-1 window on the low+high total. -/
  bit1 : Window
  /-- `REPEAT_FILTER`: repeat markers absorbed before repeat keys are emitted. -/
  repeatFilter : Nat
  /-- `KEY_BASE`: offset added to every emitted key code. -/
  keyBase : Byte
  /-- `REPEAT_SOURCE`. -/
  repeatSource : RepeatSource
  /-- `REPEAT_EMIT_EN`: whether repeat keys are emitted at all. -/
  repeatEmitEn : Bool
  /-- `START_CLEARS_REPEAT`: whether START also clears `repeatCount`, `rxBuf` and `lastValidCmd`. -/
  startClearsRepeat : Bool
  /-- `BASELINE_ZERO_SENTINEL`: how the first edge after start is detected (R123). -/
  baselineZeroSentinel : Bool
  /-- `TOTAL_WRAP16`: whether the low+high total wraps modulo 65536 (R149). -/
  totalWrap16 : Bool
deriving DecidableEq, Repr

/-- The value of `KEY_BASE`, OPEN in the spec (R8, D29): a free value, with no body.
DESIGN CHOICE (log entry 4): it stands in the reset configuration only; safe. -/
opaque Config.openKeyBase : Byte

/-- `MIN_EVENT_INTERVAL` in ticks, OPEN in the spec (R240, D2): a free value, with no body.
It is the host's obligation (I12); only Safety.lean's host contract reads it. -/
opaque Config.minEventInterval : Nat

/-- R8's defaults for every parameter but `KEY_BASE`, which the argument gives. -/
def Config.defaults (keyBase : Byte) : Config where
  leaderLow := ⟨700, 1100⟩
  leaderHigh := ⟨310, 600⟩
  repeatHigh := ⟨150, 250⟩
  bitLow := ⟨10, 100⟩
  bit0 := ⟨92, 132⟩
  bit1 := ⟨205, 245⟩
  repeatFilter := 10
  keyBase := keyBase
  repeatSource := .rxbuf
  repeatEmitEn := true
  startClearsRepeat := false
  baselineZeroSentinel := false
  totalWrap16 := false

end Sys2Proof
end

