-- ==== Sys2Proof/Syntax.lean ====
section
/-! DEFINITION. The input events, one constructor per row of spec/opcode_table.json (R71). -/

namespace Sys2Proof

/-- The six input events (R71). The operands are 16 bits wide, taken as unsigned integers (R72). -/
inductive Instr where
  /-- NOP, R100. -/
  | nop
  /-- RESET, R101. -/
  | reset
  /-- START, R102. -/
  | start
  /-- STOP, R103. -/
  | stop
  /-- EDGE, R120: the timer count latched at the edge. -/
  | edge (capture : Ticks)
  /-- WIDTH, R126: a pulse width in 10 µs ticks. -/
  | width (w : Ticks)
deriving DecidableEq, Repr

/-- Why an event word is reserved (R73). -/
inductive Reserved where
  /-- R73(a): `op` in 0x6..0xF, with any operand. -/
  | op (op : BitVec 4)
  /-- R73(b): `op` in 0x0..0x3 with a non-zero operand. -/
  | operand (op : BitVec 4) (val : Ticks)
deriving DecidableEq, Repr

/-- What an event word decodes to (R74): an event, or reserved. -/
inductive Decoded where
  | event (i : Instr)
  | reserved (why : Reserved)
deriving DecidableEq, Repr

end Sys2Proof
end

