-- ==== Sys2Proof/WellFormed.lean ====
section
/-! DEFINITION. When an event and a configuration are well formed (R8, R72). -/

namespace Sys2Proof

/-- The operand of an event as a number; the events without an operand carry 0 (R72). -/
def Instr.operand : Instr → Nat
  | .nop => 0
  | .reset => 0
  | .start => 0
  | .stop => 0
  | .edge c => c.toNat
  | .width w => w.toNat

/-- An event is well formed when its operand fits `ev[15:0]` (R70, R75).
The operands' type has that width, so no term of `Instr` fails it; a line of text can (`Machine/Text.lean`). -/
def Instr.wellFormed (i : Instr) : Bool := decide (i.operand ≤ 65535)

/-- `MIN <= MAX` (R8). -/
def Window.ordered (win : Window) : Bool := decide (win.min ≤ win.max)

/-- A configuration is well formed when every `MIN <= MAX` holds and `REPEAT_FILTER <= 255` (R8).
`KEY_BASE <= 255` holds by its type. -/
def Config.wellFormed (c : Config) : Bool :=
  c.leaderLow.ordered && c.leaderHigh.ordered && c.repeatHigh.ordered &&
  c.bitLow.ordered && c.bit0.ordered && c.bit1.ordered &&
  decide (c.repeatFilter ≤ 255)

end Sys2Proof
end

