-- ==== Sys2Proof/Decode.lean ====
section
/-! DEFINITION. The event encoding: decoder (R74), encoder (R71) and the opcode table's rows. -/

namespace Sys2Proof

/-- `op = ev[19:16]` (R70). -/
def opField (ev : EventWord) : BitVec 4 := ev.extractLsb' 16 4

/-- `val = ev[15:0]` (R70). -/
def valField (ev : EventWord) : Ticks := ev.extractLsb' 0 16

/-- An event without an operand: `val` must be 0 (R72, R73(b)). -/
def decodePlain (i : Instr) (op : BitVec 4) (val : Ticks) : Decoded :=
  if val = 0#16 then .event i else .reserved (.operand op val)

/-- The case analysis of `decode_event` (R74) over the two fields. -/
def decodeFields (op : BitVec 4) (val : Ticks) : Decoded :=
  match op.toNat with
  | 0x0 => decodePlain .nop op val
  | 0x1 => decodePlain .reset op val
  | 0x2 => decodePlain .start op val
  | 0x3 => decodePlain .stop op val
  | 0x4 => .event (.edge val)
  | 0x5 => .event (.width val)
  | _ => .reserved (.op op)

/-- `decode_event` (R74), total on 20-bit words. -/
def decode (ev : EventWord) : Decoded := decodeFields (opField ev) (valField ev)

/-- The op value of an event (R71). -/
def opValue : Instr → BitVec 4
  | .nop => 0x0#4
  | .reset => 0x1#4
  | .start => 0x2#4
  | .stop => 0x3#4
  | .edge _ => 0x4#4
  | .width _ => 0x5#4

/-- The operand field of an event; 0 where it has none (R72). -/
def valValue : Instr → Ticks
  | .nop => 0#16
  | .reset => 0#16
  | .start => 0#16
  | .stop => 0#16
  | .edge c => c
  | .width w => w

/-- The event word `{op, val}` (R71, R75). -/
def encode (i : Instr) : EventWord := opValue i ++ valValue i

/-- A row of spec/opcode_table.json: a word belongs to the row when `word AND mask = match`. -/
structure OpcodeRow where
  mnemonic : String
  pattern : EventWord
  mask : EventWord
deriving DecidableEq, Repr

/-- spec/opcode_table.json, row by row. -/
def opcodeRows : List OpcodeRow :=
  [⟨"NOP", 0x00000#20, 0xFFFFF#20⟩,
   ⟨"RESET", 0x10000#20, 0xFFFFF#20⟩,
   ⟨"START", 0x20000#20, 0xFFFFF#20⟩,
   ⟨"STOP", 0x30000#20, 0xFFFFF#20⟩,
   ⟨"EDGE", 0x40000#20, 0xF0000#20⟩,
   ⟨"WIDTH", 0x50000#20, 0xF0000#20⟩]

/-- Whether a word belongs to a row. -/
def OpcodeRow.covers (row : OpcodeRow) (ev : EventWord) : Bool := ev &&& row.mask == row.pattern

/-- The mnemonic of an event (R71). -/
def mnemonic : Instr → String
  | .nop => "NOP"
  | .reset => "RESET"
  | .start => "START"
  | .stop => "STOP"
  | .edge _ => "EDGE"
  | .width _ => "WIDTH"

/-- The event word that `nbits` bits of the number `w` put on the port `ev`.
The port has 20 wires, and a decoder always consumes exactly 20 bits (R70): bit i of the table's numbering is `ev[i]`, and bits above 19 have no wire (log entry 11). -/
def tableWord (nbits w : Nat) : EventWord := BitVec.ofNat 20 (w % 2 ^ nbits)

/-- The event the decoder reads from a word numbered as spec/opcode_table.json numbers it; none where the word is reserved. -/
def decodeTableWord (nbits w : Nat) : Option Instr :=
  match decode (tableWord nbits w) with
  | .event i => some i
  | .reserved _ => none

end Sys2Proof
end

