-- ==== Sys2Proof/Machine/State.lean ====
section
/-! DEFINITION. The state record (R20), the ports around it (R7), reset (R34) and the reasons a step can stop. -/

namespace Sys2Proof.Machine

/-- `status` (R22): the current position in the NEC frame grammar. -/
inductive Status where
  | awaitLeaderLow
  | awaitLeaderHigh
  | awaitBitLow
  | awaitBitPair
deriving DecidableEq, Repr

/-- `rxBuf[0..3]` (R24), the slots under their names. -/
structure RxBuf where
  /-- `rxBuf[0]`. -/
  addressLow : Byte
  /-- `rxBuf[1]`. -/
  addressHigh : Byte
  /-- `rxBuf[2]`. -/
  command : Byte
  /-- `rxBuf[3]`. -/
  commandInverted : Byte
deriving DecidableEq, Repr

/-- The state record of R20. -/
structure Registers where
  /-- R22. -/
  status : Status
  /-- R23: the last raw timer count observed. -/
  lastCapture : Ticks
  /-- R24. -/
  rxBuf : RxBuf
  /-- R25. -/
  repeatCount : Byte
  /-- R26: the width of the last accepted bit-low pulse. -/
  lowWidth : Ticks
  /-- R27: the byte under construction. -/
  byteAcc : Byte
  /-- R28: the data bits accepted in the current frame. -/
  bitCount : BitVec 6
  /-- R29: whether the capture source is armed. -/
  armed : Bool
  /-- R30: whether the baseline edge after START has been seen. -/
  baselineValid : Bool
  /-- R31: the command of the last checksum-valid frame. Present in every configuration, written by a frame and read only when `REPEAT_SOURCE = LASTVALID` (log entry 9). -/
  lastValidCmd : Byte
deriving DecidableEq, Repr

/-- The machine: the state record, its configuration and its ports. -/
structure State where
  /-- The parameters of R8: constant, and no register (R20; log entry 1). -/
  config : Config
  /-- The state record (R20). -/
  regs : Registers
  /-- The input port `ev` (R7): the event words still to arrive, in order (R56, R251; log entry 2). -/
  events : List EventWord
  /-- The output port (R7, R32): the key code the last step drove, none when `key_valid = 0` (log entry 3). -/
  keyOut : Option Byte
  /-- The observation of the run (R206, D30): the key codes emitted so far, in step order (log entries 3 and 14). -/
  keys : List Byte
deriving DecidableEq, Repr

/-- What DECODE or a serializer step does: the registers it leaves and the key it emits, if any (R12, R140). -/
structure Effect where
  regs : Registers
  key : Option Byte
deriving DecidableEq, Repr

/-- The outcome of one run of the DECODE dispatch (R141): it ends, or asks for a `redo` under the registers it leaves (R142). -/
inductive Dispatched where
  | done (e : Effect)
  | redo (r : Registers)
deriving DecidableEq, Repr

/-- The block raises no exception and has no trap (R200). The one reason here is no fault of the hardware. -/
inductive Fault where
  /-- Raised by `step` when the event stream is empty: there is no event, so there is no step, and the run has ended (R12, R251). Safe: the model stops where the hardware waits for its next event (log entry 2). -/
  | endOfStream
deriving DecidableEq, Repr

/-- The model-level refusals (R200). -/
inductive Refusal where
  /-- An instruction whose meaning is not written yet. No arm of `exec` answers it. Safe. -/
  | notModelled (mnemonic : String)
  /-- `refuse(ReservedEvent)` (R73): raised by `step` on a reserved event word. Safe (log entry 15). -/
  | reservedEvent (why : Reserved)
  /-- Raised by `step` when the configuration is not well formed (R8). Safe (log entry 7). -/
  | illFormedConfiguration
deriving DecidableEq, Repr

/-- Every slot 0 (R34). -/
def RxBuf.reset : RxBuf := ⟨0x00#8, 0x00#8, 0x00#8, 0x00#8⟩

/-- The reset values of R34. -/
def Registers.reset : Registers where
  status := .awaitLeaderLow
  lastCapture := 0#16
  rxBuf := RxBuf.reset
  repeatCount := 0x00#8
  lowWidth := 0#16
  byteAcc := 0x00#8
  bitCount := 0#6
  armed := false
  baselineValid := false
  lastValidCmd := 0x00#8

/-- The machine after power-on under a configuration (R230): the registers of R34, no event presented, no key driven or emitted. -/
def State.powerOn (c : Config) : State where
  config := c
  regs := Registers.reset
  events := []
  keyOut := none
  keys := []

/-- The machine right after reset under R8's defaults, with `KEY_BASE` open. -/
def State.reset : State := State.powerOn (Config.defaults Config.openKeyBase)

end Sys2Proof.Machine
end

