-- ==== Sys2Proof/Machine/Operands.lean ====
section
/-! DEFINITION. The values DECODE and the serializer compute: windows, widths, totals, key codes. -/

namespace Sys2Proof.Machine

/-- `in(v, LO, HI)` means `LO <= v <= HI` (R11; both ends included, R8, D4). -/
def inWindow (v : Nat) (win : Window) : Bool := decide (win.min ≤ v) && decide (v ≤ win.max)

/-- `(c - lastCapture) mod 65536`, unsigned 16-bit wraparound subtraction (R121). -/
def captureWidth (c last : Ticks) : Ticks := c - last

/-- The low+high total (R149): exact, or modulo 65536 when `TOTAL_WRAP16`. -/
def pairTotal (c : Config) (low w : Ticks) : Nat :=
  if c.totalWrap16 then (low.toNat + w.toNat) % 65536 else low.toNat + w.toNat

/-- The bit an AwaitBitPair total stands for: the bit-0 window is tested before the bit-1 window, and a total in neither is rejected (R150, R151, R152). -/
def pairBit (c : Config) (total : Nat) : Option Bool :=
  if inWindow total c.bit0 then some false
  else if inWindow total c.bit1 then some true
  else none

/-- `(command + KEY_BASE) mod 256` (R156, R181, D8). -/
def keyCode (c : Config) (command : Byte) : Byte := command + c.keyBase

/-- `(byteAcc >> 1) | (bit << 7)` (R153): an 8-bit logical shift right, the new bit entering at bit 7. -/
def shiftIn (bit : Bool) (acc : Byte) : Byte := (acc >>> 1) ||| (if bit then 0x80#8 else 0x00#8)

/-- The slot a byte-boundary store writes (R154): the store happens when `bitCount` is 8, 16, 24 or 32.
Larger counts do not arise (R33(d)); they store nothing here (log entry 10). -/
def byteSlot (bitCount : BitVec 6) : Option (Fin 4) :=
  match bitCount.toNat with
  | 8 => some 0
  | 16 => some 1
  | 24 => some 2
  | 32 => some 3
  | _ => none

/-- The numeric encoding of `status` (R22, D16). -/
def Status.code : Status → BitVec 2
  | .awaitLeaderLow => 0#2
  | .awaitLeaderHigh => 1#2
  | .awaitBitLow => 2#2
  | .awaitBitPair => 3#2

/-- Read as one 32-bit value, the frame is `{rxBuf[3], rxBuf[2], rxBuf[1], rxBuf[0]}` (R53). The block never forms it. -/
def RxBuf.frameWord (b : RxBuf) : BitVec 32 :=
  b.commandInverted ++ b.command ++ b.addressHigh ++ b.addressLow

/-- The 16-bit address `{rxBuf[1], rxBuf[0]}` (R53). The block never forms it. -/
def RxBuf.address (b : RxBuf) : BitVec 16 := b.addressHigh ++ b.addressLow

end Sys2Proof.Machine
end

