-- ==== Sys2Proof/Machine/Flags.lean ====
section
/-! DEFINITION. The tests and the one-bit state (R33). The block has no condition codes. -/

namespace Sys2Proof.Machine

/-- `baseline_pending()` (R123): whether this edge is the baseline edge. It reads the registers as they stood before the edge. -/
def baselinePending (c : Config) (r : Registers) : Bool :=
  if c.baselineZeroSentinel then decide (r.status = .awaitLeaderLow) && decide (r.lastCapture = 0#16)
  else !r.baselineValid

/-- The checksum gate, `(rxBuf[2] + rxBuf[3]) mod 256 == 0xFF` (R155). -/
def checksumOk (b : RxBuf) : Bool := b.command + b.commandInverted == 0xFF#8

/-- Whether the repeat filter's threshold is met, `repeatCount >= REPEAT_FILTER` (R181). -/
def filterMet (c : Config) (r : Registers) : Bool := decide (c.repeatFilter ≤ r.repeatCount.toNat)

/-- `armed <- 1` (R102). -/
def Registers.arm (r : Registers) : Registers := { r with armed := true }

/-- `armed <- 0` (R103). -/
def Registers.disarm (r : Registers) : Registers := { r with armed := false }

end Sys2Proof.Machine
end

