-- ==== Sys2Proof/Machine/Ops.lean ====
section
/-! DEFINITION. The named operations over the registers, DECODE (R141), REPEAT (R181), the end of a step and the fetch of the next event.

The block has no memory (R50) and takes no exception (R200, R208), so no memory operation and no trap entry or return stands here. -/

namespace Sys2Proof.Machine

/-- Byte `i` of the receive buffer (R11, R24). -/
def RxBuf.slot (b : RxBuf) (i : Fin 4) : Byte :=
  match i with
  | 0 => b.addressLow
  | 1 => b.addressHigh
  | 2 => b.command
  | 3 => b.commandInverted

/-- `rxBuf[i] <- v` (R11, R24). -/
def RxBuf.store (b : RxBuf) (i : Fin 4) (v : Byte) : RxBuf :=
  match i with
  | 0 => { b with addressLow := v }
  | 1 => { b with addressHigh := v }
  | 2 => { b with command := v }
  | 3 => { b with commandInverted := v }

/-- `status <- st`. -/
def Registers.goto (st : Status) (r : Registers) : Registers := { r with status := st }

/-- The frame leader is accepted (R144). -/
def Registers.beginFrame (r : Registers) : Registers :=
  { r with status := .awaitBitLow, byteAcc := 0x00#8, bitCount := 0#6 }

/-- A bit-low pulse is accepted (R147). -/
def Registers.rememberLow (w : Ticks) (r : Registers) : Registers :=
  { r with lowWidth := w, status := .awaitBitPair }

/-- Bit assembly (R153). -/
def Registers.shiftBit (bit : Bool) (r : Registers) : Registers :=
  { r with byteAcc := shiftIn bit r.byteAcc, bitCount := r.bitCount + 1#6 }

/-- The byte-boundary store (R154), after the increment of R153. -/
def Registers.storeByte (r : Registers) : Registers :=
  match byteSlot r.bitCount with
  | some i => { r with rxBuf := r.rxBuf.store i r.byteAcc, byteAcc := 0x00#8 }
  | none => r

/-- The registers a checksum-valid frame writes besides `status` (R156, R187). -/
def Registers.acceptFrame (c : Config) (r : Registers) : Registers :=
  { r with
    repeatCount := 0x00#8
    lastValidCmd :=
      match c.repeatSource with
      | .lastvalid => r.rxBuf.command
      | .rxbuf => r.lastValidCmd }

/-- The end of a 32-bit frame (R155, R156, R158). -/
def completeFrame (c : Config) (r : Registers) : Effect :=
  if checksumOk r.rxBuf then
    ⟨(r.acceptFrame c).goto .awaitLeaderLow, some (keyCode c r.rxBuf.command)⟩
  else ⟨r.goto .awaitLeaderLow, none⟩

/-- An accepted bit: assembly, byte store, and the end of the frame after bit 32 (R153 to R158). -/
def acceptBit (c : Config) (bit : Bool) (r : Registers) : Effect :=
  let r' := (r.shiftBit bit).storeByte
  if r'.bitCount = 32#6 then completeFrame c r' else ⟨r'.goto .awaitBitLow, none⟩

/-- `repeat_cmd()` (R182). -/
def repeatCmd (c : Config) (r : Registers) : Byte :=
  match c.repeatSource with
  | .rxbuf => r.rxBuf.command
  | .lastvalid => r.lastValidCmd

/-- REPEAT (R181, R185, R186). -/
def repeatMarker (c : Config) (r : Registers) : Effect :=
  if filterMet c r then
    ⟨r, if c.repeatEmitEn then some (keyCode c (repeatCmd c r)) else none⟩
  else ⟨{ r with repeatCount := r.repeatCount + 1#8 }, none⟩

/-- AwaitLeaderLow (R143). -/
def dispatchLeaderLow (c : Config) (w : Ticks) (r : Registers) : Dispatched :=
  if inWindow w.toNat c.leaderLow then .done ⟨r.goto .awaitLeaderHigh, none⟩ else .done ⟨r, none⟩

/-- AwaitLeaderHigh (R144, R145, R146): the frame window is tested before the repeat window, and a mismatch does not redo. -/
def dispatchLeaderHigh (c : Config) (w : Ticks) (r : Registers) : Dispatched :=
  if inWindow w.toNat c.leaderHigh then .done ⟨r.beginFrame, none⟩
  else if inWindow w.toNat c.repeatHigh then
    let e := repeatMarker c r
    .done ⟨e.regs.goto .awaitLeaderLow, e.key⟩
  else .done ⟨r.goto .awaitLeaderLow, none⟩

/-- AwaitBitLow (R147, R148). -/
def dispatchBitLow (c : Config) (w : Ticks) (r : Registers) : Dispatched :=
  if inWindow w.toNat c.bitLow then .done ⟨r.rememberLow w, none⟩ else .redo (r.goto .awaitLeaderLow)

/-- AwaitBitPair (R149 to R158). -/
def dispatchBitPair (c : Config) (w : Ticks) (r : Registers) : Dispatched :=
  match pairBit c (pairTotal c r.lowWidth w) with
  | some bit => .done (acceptBit c bit r)
  | none => .redo (r.goto .awaitLeaderLow)

/-- One run of the DECODE dispatch (R141). -/
def dispatch (c : Config) (w : Ticks) (r : Registers) : Dispatched :=
  match r.status with
  | .awaitLeaderLow => dispatchLeaderLow c w r
  | .awaitLeaderHigh => dispatchLeaderHigh c w r
  | .awaitBitLow => dispatchBitLow c w r
  | .awaitBitPair => dispatchBitPair c w r

/-- The DECODE loop (R141, R142), with a bound on the number of dispatches.
With the bound used up, a further `redo` would leave the registers it asks to run under; Laws/Ops.lean shows that two dispatches always end (`decodePulse_ends`). -/
def decodeLoop (c : Config) (w : Ticks) : Nat → Registers → Effect
  | 0, r => ⟨r, none⟩
  | n + 1, r =>
    match dispatch c w r with
    | .done e => e
    | .redo r' => decodeLoop c w n r'

/-- DECODE(w) (R141): "one DECODE call runs the dispatch at most twice" (R142). -/
def decodePulse (c : Config) (w : Ticks) (r : Registers) : Effect := decodeLoop c w 2 r

/-- The end of a step (R12): the registers are written, and the key output is driven for this step and observed (R11, R32, R206). -/
def State.finish (s : State) (e : Effect) : State :=
  { s with regs := e.regs, keyOut := e.key, keys := s.keys ++ e.key.toList }

/-- The next event word, and the machine with that word taken off the port (R12, R56); none at the end of the stream. -/
def fetch (s : State) : Option (EventWord × State) :=
  match s.events with
  | [] => none
  | ev :: rest => some (ev, { s with events := rest })

/-- An event word presented ahead of the ones still to arrive. -/
def State.present (s : State) (ev : EventWord) : State := { s with events := ev :: s.events }

end Sys2Proof.Machine
end

