-- ==== Sys2Proof/Machine/Control.lean ====
section
/-! DEFINITION. The control events: NOP, RESET, START, STOP (R100 to R103). None emits a key. -/

namespace Sys2Proof.Machine

/-- The registers START initialises in every configuration (R102). -/
def Registers.clearFrame (r : Registers) : Registers :=
  { r with
    status := .awaitLeaderLow
    lastCapture := 0#16
    baselineValid := false
    lowWidth := 0#16
    byteAcc := 0x00#8
    bitCount := 0#6 }

/-- The registers START clears too when `START_CLEARS_REPEAT` (R102). -/
def Registers.clearRepeat (r : Registers) : Registers :=
  { r with repeatCount := 0x00#8, rxBuf := RxBuf.reset, lastValidCmd := 0x00#8 }

/-- NOP (R100): nothing is written. -/
def execNop (s : State) : Host.Outcome State Fault Refusal :=
  .next (s.finish ⟨s.regs, none⟩)

/-- RESET (R101): every register takes its reset value. The configuration is no register, and no event can change it (R232; log entry 21). -/
def execReset (s : State) : Host.Outcome State Fault Refusal :=
  .next (s.finish ⟨Registers.reset, none⟩)

/-- START (R102). -/
def execStart (s : State) : Host.Outcome State Fault Refusal :=
  let r := s.regs.clearFrame
  let r := if s.config.startClearsRepeat then r.clearRepeat else r
  .next (s.finish ⟨r.arm, none⟩)

/-- STOP (R103): every register but `armed` is unchanged. -/
def execStop (s : State) : Host.Outcome State Fault Refusal :=
  .next (s.finish ⟨s.regs.disarm, none⟩)

end Sys2Proof.Machine
end

