-- ==== Sys2Proof/Machine/Serializer.lean ====
section
/-! DEFINITION. The edge serializer: EDGE and WIDTH (R120 to R127). -/

namespace Sys2Proof.Machine

/-- What every armed EDGE writes, the baseline edge included (R120, R122). -/
def Registers.latch (c : Ticks) (r : Registers) : Registers :=
  { r with lastCapture := c, baselineValid := true }

/-- EDGE(c) on the registers (R120): dropped while disarmed (R125), absorbed when the baseline is pending (R124), decoded otherwise. -/
def serializeEdge (cfg : Config) (c : Ticks) (r : Registers) : Effect :=
  if r.armed then
    if baselinePending cfg r then ⟨r.latch c, none⟩
    else decodePulse cfg (captureWidth c r.lastCapture) (r.latch c)
  else ⟨r, none⟩

/-- WIDTH(w) on the registers (R126): dropped while disarmed (R125), decoded otherwise. -/
def serializeWidth (cfg : Config) (w : Ticks) (r : Registers) : Effect :=
  if r.armed then decodePulse cfg w r else ⟨r, none⟩

/-- EDGE (R120). -/
def execEdge (c : Ticks) (s : State) : Host.Outcome State Fault Refusal :=
  .next (s.finish (serializeEdge s.config c s.regs))

/-- WIDTH (R126). -/
def execWidth (w : Ticks) (s : State) : Host.Outcome State Fault Refusal :=
  .next (s.finish (serializeWidth s.config w s.regs))

end Sys2Proof.Machine
end

