-- ==== Sys2Proof/Machine/Step.lean ====
section
/-! DEFINITION. One step per input event (R12). -/

namespace Sys2Proof.Machine

/-- One step: an ill-formed configuration is refused (R8), the next event word is taken from the port, a reserved word is refused (R73), and any other runs its event.
With no event left the run has ended (R251; log entry 2). -/
def step (s : State) : Host.Outcome State Fault Refusal :=
  if s.config.wellFormed then
    match fetch s with
    | none => .fault .endOfStream
    | some (ev, s') =>
      match decode ev with
      | .event i => exec i s'
      | .reserved why => .refused (.reservedEvent why)
  else .refused .illFormedConfiguration

/-- `s` with the event word of the table's numbering presented as the very next event (log entry 12). -/
def State.withFetchWord (s : State) (nbits w : Nat) : State := s.present (tableWord nbits w)

end Sys2Proof.Machine
end

