-- ==== Sys2Proof/Machine/Text.lean ====
section
/-! DEFINITION. The textual syntax of one event (R75) and its printing (R77), over lists of characters.

R75 says nothing of white space, of lines without an event or of the case of printed hex digits; log entry 16 names what this file takes. -/

namespace Sys2Proof.Machine

/-- What one line of text assembles to. -/
inductive Assembled where
  /-- Nothing but blanks and a comment. -/
  | blank
  | event (i : Instr)
  /-- An assembly error (R75). -/
  | error
deriving DecidableEq, Repr

/-- Case-insensitive (R75): an ASCII letter as its capital. -/
def capital (c : Char) : Char :=
  if 97 ≤ c.toNat ∧ c.toNat ≤ 122 then Char.ofNat (c.toNat - 32) else c

/-- A space, a tab, or the end-of-line characters. -/
def isBlank (c : Char) : Bool := c == ' ' || c == '\t' || c == '\n' || c == '\r'

/-- A `;` starts a comment (R75). -/
def stripComment (line : List Char) : List Char := line.takeWhile (fun c => c != ';')

/-- Whether a text ends here or goes on with a blank. -/
def atBreak : List Char → Bool
  | [] => true
  | c :: _ => isBlank c

/-- A character put in front of the first word. -/
def consFirst (c : Char) : List (List Char) → List (List Char)
  | [] => [[c]]
  | w :: ws => (c :: w) :: ws

/-- The words of a text, parted by blanks. -/
def words : List Char → List (List Char)
  | [] => []
  | c :: cs =>
    if isBlank c then words cs
    else if atBreak cs then [c] :: words cs
    else consFirst c (words cs)

/-- The value of a digit, capitals only; none where the character is no digit of the base. -/
def digitValue (base : Nat) (c : Char) : Option Nat :=
  let v :=
    if 48 ≤ c.toNat ∧ c.toNat ≤ 57 then c.toNat - 48
    else if 65 ≤ c.toNat ∧ c.toNat ≤ 70 then c.toNat - 55
    else base
  if v < base then some v else none

/-- A number read digit by digit onto an accumulator. -/
def readDigits (base : Nat) : Nat → List Char → Option Nat
  | acc, [] => some acc
  | acc, c :: cs =>
    match digitValue base c with
    | some v => readDigits base (acc * base + v) cs
    | none => none

/-- At least one digit, all of the base. -/
def readNumberIn (base : Nat) : List Char → Option Nat
  | [] => none
  | c :: cs => readDigits base 0 (c :: cs)

/-- "A number is decimal, or hex with `0x`" (R75); letters are capitals by now. -/
def readNumber : List Char → Option Nat
  | '0' :: 'X' :: ds => readNumberIn 16 ds
  | ds => readNumberIn 10 ds

/-- "A number outside 0..65535 is an assembly error" (R75). -/
def assembleOperand (mk : Ticks → Instr) (text : List Char) : Assembled :=
  match readNumber text with
  | some n => if n ≤ 65535 then .event (mk (BitVec.ofNat 16 n)) else .error
  | none => .error

/-- The lines of R75. -/
def assembleWords : List (List Char) → Assembled
  | [] => .blank
  | [['N', 'O', 'P']] => .event .nop
  | [['R', 'E', 'S', 'E', 'T']] => .event .reset
  | [['S', 'T', 'A', 'R', 'T']] => .event .start
  | [['S', 'T', 'O', 'P']] => .event .stop
  | [['E', 'D', 'G', 'E'], n] => assembleOperand .edge n
  | [['W', 'I', 'D', 'T', 'H'], n] => assembleOperand .width n
  | _ => .error

/-- One line of text (R75). -/
def assembleLine (line : List Char) : Assembled :=
  assembleWords (words ((stripComment line).map capital))

/-- The character of a digit; letters are capitals. -/
def digitChar (d : Nat) : Char := if d < 10 then Char.ofNat (48 + d) else Char.ofNat (55 + d)

/-- A number in decimal, without leading zeros, in at most `fuel` digits. -/
def decimalDigits : Nat → Nat → List Char
  | 0, _ => []
  | fuel + 1, n => if n < 10 then [digitChar n] else decimalDigits fuel (n / 10) ++ [digitChar (n % 10)]

/-- A 16-bit operand in decimal (R77). -/
def decimal (v : Ticks) : List Char := decimalDigits 5 v.toNat

/-- The `k` low hex digits of a number. -/
def hexDigits : Nat → Nat → List Char
  | 0, _ => []
  | k + 1, n => hexDigits k (n / 16) ++ [digitChar (n % 16)]

/-- An event with the syntax of R75, its operand in decimal (R77). -/
def printInstr : Instr → List Char
  | .nop => ['N', 'O', 'P']
  | .reset => ['R', 'E', 'S', 'E', 'T']
  | .start => ['S', 'T', 'A', 'R', 'T']
  | .stop => ['S', 'T', 'O', 'P']
  | .edge c => ['E', 'D', 'G', 'E', ' '] ++ decimal c
  | .width w => ['W', 'I', 'D', 'T', 'H', ' '] ++ decimal w

/-- An event word printed back; a reserved word as `.word 0x<5 hex digits>` (R77). -/
def printWord (ev : EventWord) : List Char :=
  match decode ev with
  | .event i => printInstr i
  | .reserved _ => ['.', 'w', 'o', 'r', 'd', ' ', '0', 'x'] ++ hexDigits 5 ev.toNat

end Sys2Proof.Machine
end

