-- ==== Sys2Proof/Machine/Macros.lean ====
section
/-! DEFINITION. The pseudo-events of the assembler and their expansions (R76). The time cursor is the assembler's, never the block's. -/

namespace Sys2Proof.Machine

/-- The pseudo-events of R76.
DESIGN CHOICE (log entry 23): R76 gives their operands no range. A time or a width is any number, reduced modulo 65536 as the expansions say; a byte is 8 bits by its type. -/
inductive Pseudo where
  | leader
  | rmark
  | bit0
  | bit1
  | byte (b : Byte)
  | frame (a0 a1 c ci : Byte)
  | clock (t : Nat)
  | pulse (w : Nat)
  | epulses (ws : List Nat)
deriving DecidableEq, Repr

/-- `LEADER`. -/
def leaderEvents : List Instr := [.width 930#16, .width 465#16]

/-- `RMARK`: one repeat marker. -/
def repeatMarkEvents : List Instr := [.width 930#16, .width 225#16]

/-- `BIT0` and `BIT1`. -/
def bitEvents (bit : Bool) : List Instr := [.width 56#16, .width (if bit then 169#16 else 56#16)]

/-- `BYTE <b>`: bit 0 of `b` first, bit 7 last. -/
def byteEvents (b : Byte) : List Instr := (List.range 8).flatMap (fun k => bitEvents (b.getLsbD k))

/-- `FRAME <a0>,<a1>,<c>,<ci>`: 66 WIDTH events. -/
def frameEvents (a0 a1 c ci : Byte) : List Instr :=
  leaderEvents ++ byteEvents a0 ++ byteEvents a1 ++ byteEvents c ++ byteEvents ci

/-- The time cursor after a pulse: `(T + w) mod 65536`. -/
def advance (t : Ticks) (w : Nat) : Ticks := t + BitVec.ofNat 16 w

/-- `EPULSES <w1>,<w2>,...` from the cursor `t`: the captures a 16-bit free-running timer would latch. -/
def pulseEvents (t : Ticks) : List Nat → List Instr
  | [] => []
  | w :: ws => .edge (advance t w) :: pulseEvents (advance t w) ws

/-- The cursor after `EPULSES <w1>,<w2>,...`. -/
def advanceAll (t : Ticks) : List Nat → Ticks
  | [] => t
  | w :: ws => advanceAll (advance t w) ws

/-- The events a pseudo-event stands for, and the cursor after it. -/
def Pseudo.expand (t : Ticks) : Pseudo → List Instr × Ticks
  | .leader => (leaderEvents, t)
  | .rmark => (repeatMarkEvents, t)
  | .bit0 => (bitEvents false, t)
  | .bit1 => (bitEvents true, t)
  | .byte b => (byteEvents b, t)
  | .frame a0 a1 c ci => (frameEvents a0 a1 c ci, t)
  | .clock t' => ([], BitVec.ofNat 16 t')
  | .pulse w => (pulseEvents t [w], advance t w)
  | .epulses ws => (pulseEvents t ws, advanceAll t ws)

/-- A machine with the words of a list of events presented ahead of the ones still to arrive. -/
def State.presentAll (s : State) (is : List Instr) : State :=
  { s with events := is.map encode ++ s.events }

end Sys2Proof.Machine
end

