-- ==== Sys2Proof/Machine/Ports.lean ====
section
/-! DEFINITION. What stands around the block: the key port (R7, R32), separate input pins (R207) and the external timer (R210). -/

namespace Sys2Proof.Machine

/-- `key_valid` (R7): a key code was emitted in the step just taken. -/
def State.keyValid (s : State) : Bool := s.keyOut.isSome

/-- `key_code` (R7): meaningful only when `key_valid` = 1, so it is none otherwise. -/
def State.keyCode (s : State) : Option Byte := s.keyOut

/-- A data event on separate pins: a capture or a width (R71). -/
inductive DataEvent where
  | edge (capture : Ticks)
  | width (w : Ticks)
deriving DecidableEq, Repr

/-- The event a data pin presents. -/
def DataEvent.toInstr : DataEvent → Instr
  | .edge c => .edge c
  | .width w => .width w

/-- A realisation with separate pins for reset, start, stop and edge (R207). At most one data event arrives at a time (log entry 17). -/
structure Pins where
  reset : Bool
  stop : Bool
  start : Bool
  data : Option DataEvent
deriving DecidableEq, Repr

/-- An event that a control pin presents when it is high. -/
def whenHigh (pin : Bool) (i : Instr) : List Instr := if pin then [i] else []

/-- Pins that are high together are serialised RESET before STOP before START before EDGE/WIDTH (R207, D26). -/
def Pins.serialize (p : Pins) : List Instr :=
  whenHigh p.reset .reset ++ whenHigh p.stop .stop ++ whenHigh p.start .start ++
  (p.data.map DataEvent.toInstr).toList

/-- The external timer (R210): a 16-bit free-running count of 10 µs ticks, `t` ticks after it stood at `origin`. The spec gives no start value, so `origin` is any (log entry 22). -/
def timerCount (origin : Ticks) (t : Nat) : Ticks := origin + BitVec.ofNat 16 t

end Sys2Proof.Machine
end

