-- ==== Sys2Proof/Safety.lean ====
section
/-! DEFINITION. What counts as a safe run: the record's invariants (R33), the streams that are not refused (R251), and what the host owes the block (R211, R240). -/

namespace Sys2Proof

/-- `in(v, LO, HI)` as claims say it (R11). -/
abbrev Window.holds (win : Window) (v : Nat) : Prop := win.min ≤ v ∧ v ≤ win.max

/-- The bit a total stands for, as claims say it: the bit-0 window comes first (R150, R151, R152). -/
abbrev Config.takesBit (c : Config) (bit : Bool) (total : Nat) : Prop :=
  if bit then ¬ c.bit0.holds total ∧ c.bit1.holds total else c.bit0.holds total

/-- The low+high total of a low and a high pulse, as claims say it (R149). -/
abbrev Config.total (c : Config) (low w : Ticks) : Nat :=
  if c.totalWrap16 then (low.toNat + w.toNat) % 65536 else low.toNat + w.toNat

/-- The window defaults of R8. -/
abbrev Config.defaultWindows (c : Config) : Prop :=
  c.leaderLow = ⟨700, 1100⟩ ∧ c.leaderHigh = ⟨310, 600⟩ ∧ c.repeatHigh = ⟨150, 250⟩ ∧
  c.bitLow = ⟨10, 100⟩ ∧ c.bit0 = ⟨92, 132⟩ ∧ c.bit1 = ⟨205, 245⟩

/-- A reserved word by its fields, as claims say it (R73). -/
abbrev isReserved (ev : EventWord) : Prop :=
  6 ≤ (opField ev).toNat ∨ ((opField ev).toNat ≤ 3 ∧ valField ev ≠ 0#16)

end Sys2Proof

namespace Sys2Proof.Machine

/-- `n` steps of the machine (R251), stopping at the first stop: the host's `Core.run`. -/
def run (n : Nat) (s : State) : Host.Outcome State Fault Refusal := Host.Core.run core n s

/-- The low+high total of a high pulse `w` in a machine (R149). -/
abbrev State.total (s : State) (w : Ticks) : Nat := s.config.total s.regs.lowWidth w

/-- The baseline test as claims say it (R123). -/
abbrev State.awaitsBaseline (s : State) : Prop :=
  if s.config.baselineZeroSentinel then s.regs.status = .awaitLeaderLow ∧ s.regs.lastCapture = 0#16
  else s.regs.baselineValid = false

/-- An event that hands the width `w` to DECODE, as claims say it: a WIDTH (R126), or an EDGE that is not the baseline (R120, R121, R124), on an armed block (R125). -/
def State.delivers (s : State) (i : Instr) (w : Ticks) : Prop :=
  match i with
  | .nop => False
  | .reset => False
  | .start => False
  | .stop => False
  | .edge c => s.regs.armed = true ∧ ¬ s.awaitsBaseline ∧
      w.toNat = (65536 + c.toNat - s.regs.lastCapture.toNat) % 65536
  | .width v => s.regs.armed = true ∧ w = v

/-- The width `w` completes a frame, as claims say it: AwaitBitPair with 31 bits takes a bit (R150, R151, R155). -/
abbrev State.completesFrame (s : State) (w : Ticks) : Prop :=
  s.regs.status = .awaitBitPair ∧ s.regs.bitCount = 31#6 ∧ ∃ bit, s.config.takesBit bit (s.total w)

/-- The width `w` is a repeat marker's high pulse, as claims say it: AwaitLeaderHigh, and not in the frame window (R145, R146). -/
abbrev State.takesMarker (s : State) (w : Ticks) : Prop :=
  s.regs.status = .awaitLeaderHigh ∧ ¬ s.config.leaderHigh.holds w.toNat ∧ s.config.repeatHigh.holds w.toNat

/-- `status` is AwaitBitLow or AwaitBitPair: a frame is in progress. -/
abbrev Registers.inBits (r : Registers) : Prop := r.status = .awaitBitLow ∨ r.status = .awaitBitPair

/-- The invariants of R33, under a configuration. (a) holds by the type of `status`.
(f), "`byteAcc` has received `bitCount mod 8` bits since its last clear", is stated as what it leaves in the register: the bits not yet received are 0 (log entry 19). -/
abbrev Registers.Inv (c : Config) (r : Registers) : Prop :=
  r.repeatCount.toNat ≤ c.repeatFilter ∧
  r.bitCount.toNat ≤ 32 ∧
  (r.inBits → r.bitCount.toNat ≤ 31) ∧
  (r.status = .awaitBitPair → c.bitLow.min ≤ r.lowWidth.toNat ∧ r.lowWidth.toNat ≤ c.bitLow.max) ∧
  (r.inBits → r.byteAcc.toNat % 2 ^ (8 - r.bitCount.toNat % 8) = 0)

/-- R33 of a machine. -/
abbrev State.Inv (s : State) : Prop := s.regs.Inv s.config

/-- An event word that is not reserved (R73). -/
def legalWord (ev : EventWord) : Bool :=
  match decode ev with
  | .event _ => true
  | .reserved _ => false

/-- A machine whose run is not refused: a well-formed configuration (R8) and no reserved word still to arrive (R251). -/
abbrev State.Safe (s : State) : Prop := s.config.wellFormed = true ∧ s.events.all legalWord = true

/-- An event and the tick at which it happens outside the block. -/
structure TimedEvent where
  time : Nat
  event : Instr
deriving DecidableEq, Repr

/-- Events at least `MIN_EVENT_INTERVAL` apart, hence in chronological order (R240). -/
def spaced : List TimedEvent → Prop
  | [] => True
  | [_] => True
  | a :: b :: es => a.time + Config.minEventInterval ≤ b.time ∧ spaced (b :: es)

/-- EDGE values are counts of the external timer: what R211(c) makes of them (`HostContract.captured` of Laws/Host.lean). -/
def captured (origin : Ticks) (es : List TimedEvent) : Prop :=
  ∀ e ∈ es, ∀ c, e.event = .edge c → c = timerCount origin e.time

/-- `armed` after an event (R29). -/
def armedAfter (armed : Bool) : Instr → Bool
  | .nop => armed
  | .reset => false
  | .start => true
  | .stop => false
  | .edge _ => armed
  | .width _ => armed

/-- An edge or width event. -/
def isData : Instr → Bool
  | .nop => false
  | .reset => false
  | .start => false
  | .stop => false
  | .edge _ => true
  | .width _ => true

/-- No edge or width event while the block is stopped: what R211(d) makes of a stream (`HostContract.quietWhileStopped` of Laws/Host.lean). -/
def quietWhileStopped : Bool → List Instr → Prop
  | _, [] => True
  | armed, i :: is => (isData i = true → armed = true) ∧ quietWhileStopped (armedAfter armed i) is

/-- What happens outside the block: an electrical edge on the IR line, or a control event the host issues. -/
inductive Happening where
  | edge (time : Nat)
  | control (e : TimedEvent)
deriving DecidableEq, Repr

/-- The tick at which it happens. -/
def Happening.time : Happening → Nat
  | .edge t => t
  | .control e => e.time

/-- The data event an edge at tick `t` may be presented as, `previous` being the edge before it (R211(c)).
A capture is the external timer's count. A width is the ticks elapsed since the previous edge, over the timer's wrap; it is not bound where there was no previous edge (log entry 13). -/
def measures (origin : Ticks) (previous : Option Nat) (t : Nat) (i : Instr) : Prop :=
  match i with
  | .nop => False
  | .reset => False
  | .start => False
  | .stop => False
  | .edge c => c = timerCount origin t
  | .width w => ∀ p, previous = some p → w = BitVec.ofNat 16 (t - p)

/-- The events presented for what happens, in the order in which it happens: a control event as itself, an edge as exactly one data event that measures it (R211(a), (b), (c)), and nothing for an edge while the block is stopped (R211(d)). So there is no event without its cause, and none is dropped. -/
def presents (origin : Ticks) : Option Nat → Bool → List Happening → List TimedEvent → Prop
  | _, _, [], es => es = []
  | previous, armed, .control e :: hs, es =>
    isData e.event = false ∧
      ∃ rest, es = e :: rest ∧ presents origin previous (armedAfter armed e.event) hs rest
  | previous, true, .edge t :: hs, es =>
    ∃ i rest, es = ⟨t, i⟩ :: rest ∧ measures origin previous t i ∧ presents origin (some t) true hs rest
  | _, false, .edge t :: hs, es => presents origin (some t) false hs es

/-- What the host owes a block that is `armed` or not, `previous` being the last edge before: R211, and R240's spacing.
`presents` is (a), the completeness of (b), (c) and (d); the happenings stand in chronological order, so their events do too (b).
The block neither checks nor needs it to take its steps (log entry 13). -/
def HostContract (origin : Ticks) (previous : Option Nat) (armed : Bool)
    (hs : List Happening) (es : List TimedEvent) : Prop :=
  (previous.toList ++ hs.map Happening.time).Pairwise (· ≤ ·) ∧
  presents origin previous armed hs es ∧ spaced es

end Sys2Proof.Machine
end

