-- ==== Sys2Proof/Certificates/Slice0/Obligations.lean ====
section
/-! DEFINITION. The statements for the provers. `win.holds v` is `LO <= v <= HI`; a state is written `{ s with … }` so that a statement names every field it changes. -/

open Sys2Proof Sys2Proof.Machine

-- Encoding (30_encoding.md)

/-- Words written out from R71's table, R75's examples and 95_test_vectors.md section 2.1. -/
def Obligations.SpecWordsDecode : Prop :=
  decode 0x00000#20 = .event .nop ∧ decode 0x10000#20 = .event .reset ∧
  decode 0x20000#20 = .event .start ∧ decode 0x30000#20 = .event .stop ∧
  decode 0x403A2#20 = .event (.edge 930#16) ∧ decode 0x501D1#20 = .event (.width 465#16) ∧
  decode 0x4FFFF#20 = .event (.edge 65535#16) ∧ decode 0x50000#20 = .event (.width 0#16) ∧
  decode 0x00001#20 = .reserved (.operand 0x0#4 0x0001#16) ∧
  decode 0x3FFFF#20 = .reserved (.operand 0x3#4 0xFFFF#16) ∧
  decode 0x60000#20 = .reserved (.op 0x6#4) ∧ decode 0xFFFFF#20 = .reserved (.op 0xF#4)

/-- Decoding the word of a well-formed event gives that event back, whatever its operand (R71, R72, R74). -/
def Obligations.DecodeOfEncodeIsTheEvent : Prop :=
  ∀ i : Instr, i.wellFormed = true → decode (encode i) = .event i

/-- A word that decodes to an event is that event's one word (R71, R74). -/
def Obligations.EveryEventHasOneWord : Prop :=
  ∀ (ev : EventWord) (i : Instr), decode ev = .event i → ev = encode i

/-- The decoder agrees with spec/opcode_table.json: a word belongs to a row exactly when it decodes to an event of that row's mnemonic, so no two rows overlap. -/
def Obligations.DecoderAgreesWithOpcodeTable : Prop :=
  ∀ (ev : EventWord) (row : OpcodeRow), row ∈ opcodeRows →
    (row.covers ev = true ↔ ∃ i, decode ev = .event i ∧ mnemonic i = row.mnemonic)

/-- R73: a word is reserved exactly by its fields; the model refuses a reserved event and gives it no step, and a run whose stream holds one is refused. -/
def Obligations.ReservedWordsAreRefused : Prop :=
  ∀ s : State, s.config.wellFormed = true →
    (∀ ev rest, s.events = ev :: rest →
      (isReserved ev ↔ ∃ why, step s = .refused (.reservedEvent why))) ∧
    ((∃ ev ∈ s.events, isReserved ev) →
      ∃ why, ∀ n, s.events.length ≤ n →
        run n s = .refused (.reservedEvent why))

/-- The inference the spec marks as its own in 30_encoding.md section 5: "Printing then assembling gives back the same word for every non-reserved word". What parts the words of a line is log entry 16. -/
def Obligations.PrintThenAssembleGivesTheWord : Prop :=
  ∀ (ev : EventWord) (i : Instr), decode ev = .event i →
    assembleLine (printWord ev) = .event i ∧ encode i = ev

/-- R75: the syntax is case-insensitive, and a `;` starts a comment. -/
def Obligations.CaseAndCommentsDoNotMatter : Prop :=
  ∀ line rest : List Char,
    assembleLine (line.map capital) = assembleLine line ∧
    assembleLine (line ++ ';' :: rest) = assembleLine line

-- The step (R12, R200, R251)

/-- A step runs the decoded event: with a well-formed configuration and an event word first on the port, `step` is `exec` of the decoded event on the machine with that word taken off the port. -/
def Obligations.StepRunsTheDecodedEvent : Prop :=
  ∀ (s : State) (ev : EventWord) (rest : List EventWord) (i : Instr),
    s.config.wellFormed = true → s.events = ev :: rest → decode ev = .event i →
      step s = exec i { s with events := rest }

/-- A configuration that is not well formed is refused (R8). That the refusal comes before the event is looked at, whatever stands on the port, is the model's choice, log entry 7. -/
def Obligations.IllFormedConfigurationIsRefused : Prop :=
  ∀ s : State,
    ¬ (s.config.leaderLow.min ≤ s.config.leaderLow.max ∧ s.config.leaderHigh.min ≤ s.config.leaderHigh.max ∧
       s.config.repeatHigh.min ≤ s.config.repeatHigh.max ∧ s.config.bitLow.min ≤ s.config.bitLow.max ∧
       s.config.bit0.min ≤ s.config.bit0.max ∧ s.config.bit1.min ≤ s.config.bit1.max ∧
       s.config.repeatFilter ≤ 255 ∧ s.config.keyBase.toNat ≤ 255) ↔
      step s = .refused .illFormedConfiguration

/-- The end of the stream is the end of the run (R251). That the model says so by a stop is its own choice, log entry 2. -/
def Obligations.EmptyStreamEndsTheRun : Prop :=
  ∀ s : State, s.config.wellFormed = true → s.events = [] → step s = .fault .endOfStream

/-- Every step that answers a next state took exactly one event, left the configuration alone (R20, R232), and logged exactly the key it drove (R140, R206). The ports as fields of the state are the model's choice, log entries 2 and 3. -/
def Obligations.StepTakesOneEventAndLogsItsKey : Prop :=
  ∀ s t : State, step s = .next t →
    (∃ ev, s.events = ev :: t.events) ∧ t.config = s.config ∧ t.keys = s.keys ++ t.keyOut.toList

/-- A safe machine runs its whole stream, one step per event, and then the run ends (R200, R240, R251). That the end shows as a stop is the model's choice, log entry 2. -/
def Obligations.SafeStreamRunsToItsEnd : Prop :=
  ∀ s : State, s.Safe →
    ∃ t, run s.events.length s = .next t ∧ t.events = [] ∧
      step t = .fault .endOfStream

-- Reset and the control events (40_control.md)

/-- R34, R101: the registers after reset, and RESET, which gives every register that value; R73(b): RESET with an operand is reserved. That RESET keeps the configuration, the events still to arrive and the keys emitted so far is read from the spec by inference, log entry 21. -/
def Obligations.ResetGivesTheResetValues : Prop :=
  decode 0x10000#20 = .event .reset ∧
  (∀ v : Ticks, v ≠ 0#16 → decode (0x1#4 ++ v) = .reserved (.operand 0x1#4 v)) ∧
  State.reset.regs =
    { status := .awaitLeaderLow, lastCapture := 0#16,
      rxBuf := { addressLow := 0#8, addressHigh := 0#8, command := 0#8, commandInverted := 0#8 },
      repeatCount := 0#8, lowWidth := 0#16, byteAcc := 0#8, bitCount := 0#6,
      armed := false, baselineValid := false, lastValidCmd := 0#8 } ∧
  ∀ s : State, exec .reset s = .next { s with
    regs :=
      { status := .awaitLeaderLow, lastCapture := 0#16,
        rxBuf := { addressLow := 0#8, addressHigh := 0#8, command := 0#8, commandInverted := 0#8 },
        repeatCount := 0#8, lowWidth := 0#16, byteAcc := 0#8, bitCount := 0#6,
        armed := false, baselineValid := false, lastValidCmd := 0#8 }
    keyOut := none }

/-- R100: NOP writes nothing and emits no key; a non-zero `val` is reserved. -/
def Obligations.NopChangesNothing : Prop :=
  decode 0x00000#20 = .event .nop ∧
  (∀ v : Ticks, v ≠ 0#16 → decode (0x0#4 ++ v) = .reserved (.operand 0x0#4 v)) ∧
  ∀ s : State, exec .nop s = .next { s with keyOut := none }

/-- R102: START, in both settings of `START_CLEARS_REPEAT`, from any state. -/
def Obligations.StartInitialisesAndArms : Prop :=
  decode 0x20000#20 = .event .start ∧
  ∀ s : State, exec .start s = .next { s with
    regs :=
      { status := .awaitLeaderLow
        lastCapture := 0#16
        rxBuf := if s.config.startClearsRepeat then ⟨0#8, 0#8, 0#8, 0#8⟩ else s.regs.rxBuf
        repeatCount := if s.config.startClearsRepeat then 0#8 else s.regs.repeatCount
        lowWidth := 0#16
        byteAcc := 0#8
        bitCount := 0#6
        armed := true
        baselineValid := false
        lastValidCmd := if s.config.startClearsRepeat then 0#8 else s.regs.lastValidCmd }
    keyOut := none }

/-- R103: STOP clears `armed` and leaves every other register unchanged; the frame in progress is never completed, since a later EDGE or WIDTH is ignored and the next START re-initialises. -/
def Obligations.StopOnlyDisarms : Prop :=
  decode 0x30000#20 = .event .stop ∧
  ∀ s : State,
    exec .stop s = .next { s with regs := { s.regs with armed := false }, keyOut := none } ∧
    ∀ t : State, exec .stop s = .next t → ∀ v : Ticks,
      exec (.edge v) t = .next t ∧ exec (.width v) t = .next t ∧
      ∃ u, exec .start t = .next u ∧ u.keyOut = none ∧ u.regs.status = .awaitLeaderLow ∧
        u.regs.bitCount = 0#6 ∧ u.regs.byteAcc = 0#8

-- The edge serializer (41_edge_serializer.md)

/-- R125: while `armed = 0`, EDGE and WIDTH change no register and emit no key. -/
def Obligations.DisarmedDataEventsAreDropped : Prop :=
  ∀ (s : State) (v : Ticks), s.regs.armed = false →
    exec (.edge v) s = .next { s with keyOut := none } ∧
    exec (.width v) s = .next { s with keyOut := none }

/-- R124 (with R123's test): the baseline edge sets `lastCapture` and `baselineValid` and does nothing else, whatever the discarded width. -/
def Obligations.BaselineEdgeIsAbsorbed : Prop :=
  ∀ (s : State) (c : Ticks), s.regs.armed = true → s.awaitsBaseline →
    exec (.edge c) s = .next { s with
      regs := { s.regs with lastCapture := c, baselineValid := true }
      keyOut := none }

/-- R120, R121: an armed EDGE that is not the baseline does what WIDTH does with the width `(c - lastCapture) mod 65536`, on the registers with the capture latched; the two answer one and the same next state. -/
def Obligations.EdgeDecodesTheWrappedWidth : Prop :=
  ∀ (s : State) (c w : Ticks), s.regs.armed = true → ¬ s.awaitsBaseline →
    w.toNat = (65536 + c.toNat - s.regs.lastCapture.toNat) % 65536 →
    ∃ t, exec (.edge c) s = .next t ∧
      exec (.width w) { s with regs := { s.regs with lastCapture := c, baselineValid := true } } = .next t

/-- R122: `lastCapture` follows every armed EDGE, the baseline edge and rejected widths included, and no disarmed one; EDGE sets `baselineValid` with it. WIDTH writes neither (R126). -/
def Obligations.ArmedEdgeLatchesItsCapture : Prop :=
  ∀ (s : State) (c : Ticks),
    (∃ t, exec (.edge c) s = .next t ∧
      t.regs.lastCapture = (if s.regs.armed then c else s.regs.lastCapture) ∧
      t.regs.baselineValid = (s.regs.armed || s.regs.baselineValid)) ∧
    (∃ t, exec (.width c) s = .next t ∧
      t.regs.lastCapture = s.regs.lastCapture ∧ t.regs.baselineValid = s.regs.baselineValid)

/-- The inference the spec marks as its own in 41_edge_serializer.md and 70_reset_and_hazards.md section 2: "A real gap of `G` ticks between edges with `G >= 65536` is seen as `G mod 65536`", whatever the origin of the external timer (log entry 22). -/
def Obligations.EdgeGapIsSeenModulo65536 : Prop :=
  ∀ (s : State) (origin w : Ticks) (t1 gap : Nat), s.regs.armed = true → ¬ s.awaitsBaseline →
    s.regs.lastCapture = timerCount origin t1 → w.toNat = gap % 65536 →
    exec (.edge (timerCount origin (t1 + gap))) s =
      exec (.width w) { s with
        regs := { s.regs with lastCapture := timerCount origin (t1 + gap), baselineValid := true } }

/-- A capture-driven stream decodes as the width-driven stream of its pulses (R76 PULSE, R120, R121, R126): the same keys and registers, but for `lastCapture`, which ends at the assembler's cursor. It rests on the inference the spec marks as its own in 30_encoding.md section 5, "a capture program needs one leading `EDGE`" (here: `baselineValid` is set). -/
def Obligations.CapturesDecodeAsTheirWidths : Prop :=
  ∀ (s : State) (ws : List Nat), s.config.wellFormed = true →
    s.config.baselineZeroSentinel = false → s.regs.armed = true → s.regs.baselineValid = true →
    ∃ t u,
      run ws.length (s.presentAll (pulseEvents s.regs.lastCapture ws)) = .next t ∧
      run ws.length (s.presentAll (ws.map fun w => .width (BitVec.ofNat 16 w))) = .next u ∧
      t = { u with regs := { u.regs with lastCapture := advanceAll s.regs.lastCapture ws } }

-- The frame decoder (42_frame_decoder.md)

/-- R142: a dispatch asks for a redo exactly when AwaitBitLow or AwaitBitPair rejects the width, and then runs under AwaitLeaderLow with every other register as it was; that run ends the call and emits nothing. Its last clause is the inference the spec marks as its own: "So one DECODE call runs the dispatch at most twice, and it always terminates". -/
def Obligations.RedoHappensOnceUnderLeaderLow : Prop :=
  ∀ (c : Config) (w : Ticks) (r r' : Registers),
    (dispatch c w r = .redo r' ↔
      ((r.status = .awaitBitLow ∧ ¬ c.bitLow.holds w.toNat) ∨
       (r.status = .awaitBitPair ∧ ¬ c.bit0.holds (c.total r.lowWidth w) ∧
         ¬ c.bit1.holds (c.total r.lowWidth w))) ∧
      r' = { r with status := .awaitLeaderLow }) ∧
    (dispatch c w r = .redo r' →
      ∃ e, dispatch c w r' = .done e ∧ e.key = none ∧ decodePulse c w r = e)

/-- R143: AwaitLeaderLow writes `status` only, and only for a width in the leader-low window. -/
def Obligations.LeaderLowTakesItsWindow : Prop :=
  ∀ (s : State) (w : Ticks), s.regs.armed = true → s.regs.status = .awaitLeaderLow →
    exec (.width w) s = .next { s with
      regs := { s.regs with
        status := if s.config.leaderLow.holds w.toNat then .awaitLeaderHigh else .awaitLeaderLow }
      keyOut := none }

/-- R144: the frame leader starts bit accumulation. -/
def Obligations.FrameLeaderStartsBits : Prop :=
  ∀ (s : State) (w : Ticks), s.regs.armed = true → s.regs.status = .awaitLeaderHigh →
    s.config.leaderHigh.holds w.toNat →
    exec (.width w) s = .next { s with
      regs := { s.regs with status := .awaitBitLow, byteAcc := 0#8, bitCount := 0#6 }
      keyOut := none }

/-- R145, R181, R182, R186: a repeat marker below the filter is counted; at the filter it emits the repeat key, if repeat keys are enabled, and leaves the counter (R185). -/
def Obligations.RepeatMarkerCountsThenEmits : Prop :=
  ∀ (s : State) (w : Ticks), s.regs.armed = true → s.regs.status = .awaitLeaderHigh →
    ¬ s.config.leaderHigh.holds w.toNat → s.config.repeatHigh.holds w.toNat →
    let command := if s.config.repeatSource = .rxbuf then s.regs.rxBuf.command else s.regs.lastValidCmd
    exec (.width w) s = .next (
      if s.config.repeatFilter ≤ s.regs.repeatCount.toNat then
        if s.config.repeatEmitEn then
          { s with
            regs := { s.regs with status := .awaitLeaderLow }
            keyOut := some (command + s.config.keyBase)
            keys := s.keys ++ [command + s.config.keyBase] }
        else { s with regs := { s.regs with status := .awaitLeaderLow }, keyOut := none }
      else
        { s with
          regs := { s.regs with
            status := .awaitLeaderLow
            repeatCount := s.regs.repeatCount + 1#8 }
          keyOut := none })

/-- R146: the frame window is tested first, so a width in both windows starts the bits. A width in neither abandons the frame, writes nothing else, and is not re-evaluated, even one of leader-low length. -/
def Obligations.LeaderHighTestsFrameFirstAndAbandons : Prop :=
  ∀ (s : State) (w : Ticks), s.regs.armed = true → s.regs.status = .awaitLeaderHigh →
    (s.config.leaderHigh.holds w.toNat → s.config.repeatHigh.holds w.toNat →
      exec (.width w) s = .next { s with
        regs := { s.regs with status := .awaitBitLow, byteAcc := 0#8, bitCount := 0#6 }
        keyOut := none }) ∧
    (¬ s.config.leaderHigh.holds w.toNat → ¬ s.config.repeatHigh.holds w.toNat →
      exec (.width w) s = .next { s with
        regs := { s.regs with status := .awaitLeaderLow }
        keyOut := none })

/-- R147: an accepted bit-low pulse is remembered. -/
def Obligations.BitLowIsRemembered : Prop :=
  ∀ (s : State) (w : Ticks), s.regs.armed = true → s.regs.status = .awaitBitLow →
    s.config.bitLow.holds w.toNat →
    exec (.width w) s = .next { s with
      regs := { s.regs with status := .awaitBitPair, lowWidth := w }
      keyOut := none }

/-- R148: a rejected bit-low pulse is re-evaluated as a leader-low, and nothing but `status` is written. -/
def Obligations.RejectedBitLowIsReoffered : Prop :=
  ∀ (s : State) (w : Ticks), s.regs.armed = true → s.regs.status = .awaitBitLow →
    ¬ s.config.bitLow.holds w.toNat →
    exec (.width w) s = .next { s with
      regs := { s.regs with
        status := if s.config.leaderLow.holds w.toNat then .awaitLeaderHigh else .awaitLeaderLow }
      keyOut := none }

/-- R152: the bit-0 window is tested first, so a total in both windows is a bit 0. A total in neither rejects the pair; the redo tests the high width `w`, not the total, and nothing but `status` is written. -/
def Obligations.PairTestsBit0FirstAndReoffers : Prop :=
  ∀ (s : State) (w : Ticks), s.regs.armed = true → s.regs.status = .awaitBitPair →
    (s.config.bit0.holds (s.total w) → s.config.bit1.holds (s.total w) →
      s.regs.bitCount.toNat ≤ 31 →
      ∃ t, exec (.width w) s = .next t ∧ t.regs.bitCount = s.regs.bitCount + 1#6 ∧
        ((s.regs.bitCount.toNat + 1) % 8 ≠ 0 →
          t.regs.byteAcc = BitVec.ofNat 8 (s.regs.byteAcc.toNat / 2)) ∧
        ∀ k : Fin 4, s.regs.bitCount.toNat + 1 = 8 * (k.val + 1) →
          t.regs.rxBuf.slot k = BitVec.ofNat 8 (s.regs.byteAcc.toNat / 2)) ∧
    (¬ s.config.bit0.holds (s.total w) → ¬ s.config.bit1.holds (s.total w) →
      exec (.width w) s = .next { s with
        regs := { s.regs with
          status := if s.config.leaderLow.holds w.toNat then .awaitLeaderHigh else .awaitLeaderLow }
        keyOut := none })

/-- R150, R151, R153: an accepted bit enters at bit 7 and is counted. One that completes no byte writes nothing else but `status`; one that completes a byte leaves the assembled byte in its slot (R154). -/
def Obligations.AcceptedBitIsAssembled : Prop :=
  ∀ (s : State) (w : Ticks) (bit : Bool) (acc : Byte), s.regs.armed = true →
    s.regs.status = .awaitBitPair → s.regs.bitCount.toNat ≤ 31 → s.config.takesBit bit (s.total w) →
    acc = BitVec.ofNat 8 (s.regs.byteAcc.toNat / 2 + (if bit then 128 else 0)) →
    ∃ t, exec (.width w) s = .next t ∧ t.regs.bitCount = s.regs.bitCount + 1#6 ∧
      ((s.regs.bitCount.toNat + 1) % 8 ≠ 0 →
        t = { s with
          regs := { s.regs with
            status := .awaitBitLow, byteAcc := acc, bitCount := s.regs.bitCount + 1#6 }
          keyOut := none }) ∧
      ∀ k : Fin 4, s.regs.bitCount.toNat + 1 = 8 * (k.val + 1) → t.regs.rxBuf.slot k = acc

/-- R154: the bit that makes `bitCount` 8, 16, 24 or 32 stores the byte in its slot, clears `byteAcc` and is counted; the other slots, `lowWidth`, `lastCapture`, `armed` and `baselineValid` are unchanged. A bit that ends byte 0, 1 or 2 also leaves `repeatCount`, `lastValidCmd` and the keys, and emits none. What the last byte's checksum does to these is `FrameEndsAtItsChecksum`. -/
def Obligations.ByteBoundaryStoresTheByte : Prop :=
  ∀ (s : State) (w : Ticks) (bit : Bool) (k : Fin 4), s.regs.armed = true →
    s.regs.status = .awaitBitPair → s.regs.bitCount.toNat + 1 = 8 * (k.val + 1) →
    s.config.takesBit bit (s.total w) →
    ∃ t, exec (.width w) s = .next t ∧
      t.regs.rxBuf.slot k = BitVec.ofNat 8 (s.regs.byteAcc.toNat / 2 + (if bit then 128 else 0)) ∧
      (∀ j, j ≠ k → t.regs.rxBuf.slot j = s.regs.rxBuf.slot j) ∧
      t.regs.byteAcc = 0#8 ∧ t.regs.bitCount = s.regs.bitCount + 1#6 ∧
      t.regs.status = (if k = 3 then .awaitLeaderLow else .awaitBitLow) ∧
      t.regs.lowWidth = s.regs.lowWidth ∧ t.regs.lastCapture = s.regs.lastCapture ∧
      t.regs.armed = s.regs.armed ∧ t.regs.baselineValid = s.regs.baselineValid ∧
      (k ≠ 3 → t.regs.repeatCount = s.regs.repeatCount ∧ t.regs.lastValidCmd = s.regs.lastValidCmd ∧
        t.keyOut = none ∧ t.keys = s.keys) ∧
      t.config = s.config ∧ t.events = s.events

/-- R155, R156, R158, R202: the 32nd bit ends the frame. The checksum reads the byte this very step stores (R59); a valid frame emits its key and clears `repeatCount`, a failed one emits nothing and changes no counter. -/
def Obligations.FrameEndsAtItsChecksum : Prop :=
  ∀ (s : State) (w : Ticks) (bit : Bool) (ci : Byte), s.regs.armed = true →
    s.regs.status = .awaitBitPair → s.regs.bitCount = 31#6 →
    s.config.takesBit bit (s.total w) →
    ci = BitVec.ofNat 8 (s.regs.byteAcc.toNat / 2 + (if bit then 128 else 0)) →
    exec (.width w) s = .next (
      let rx := { s.regs.rxBuf with commandInverted := ci }
      let ended := { s.regs with
        status := .awaitLeaderLow, rxBuf := rx, byteAcc := 0#8, bitCount := 32#6 }
      let key := s.regs.rxBuf.command + s.config.keyBase
      if (s.regs.rxBuf.command.toNat + ci.toNat) % 256 = 0xFF then
        { s with
          regs := { ended with
            repeatCount := 0#8
            lastValidCmd :=
              if s.config.repeatSource = .lastvalid then s.regs.rxBuf.command else s.regs.lastValidCmd }
          keyOut := some key
          keys := s.keys ++ [key] }
      else { s with regs := ended, keyOut := none })

/-- The inference the spec marks as its own in 42_frame_decoder.md section 4: "The sum is `0xFF` modulo 256 exactly when it equals 255", "and for every command `c` exactly one inverted byte, `0xFF - c`, passes". -/
def Obligations.ChecksumPassesExactlyTheComplement : Prop :=
  ∀ b : RxBuf,
    (checksumOk b = true ↔ b.command.toNat + b.commandInverted.toNat = 255) ∧
    (checksumOk b = true ↔ b.commandInverted = 0xFF#8 - b.command) ∧
    (checksumOk b = true ↔ b.commandInverted = ~~~ b.command)

/-- R52, R53: the eight bit pairs of a byte, bit 0 first, fill the slot of the byte's position with that byte, whatever `byteAcc` held. -/
def Obligations.ByteArrivesLsbFirst : Prop :=
  ∀ (s : State) (b : Byte) (k : Fin 4), s.config.wellFormed = true → s.config.defaultWindows →
    s.regs.armed = true → s.regs.status = .awaitBitLow → s.regs.bitCount.toNat = 8 * k.val →
    ∃ t, run 16 (s.presentAll (byteEvents b)) = .next t ∧
      t.regs.rxBuf = s.regs.rxBuf.store k b ∧ t.regs.bitCount.toNat = 8 * (k.val + 1) ∧
      t.regs.byteAcc = 0#8 ∧ t.events = s.events

/-- The end-to-end scenario for every frame (R142 to R158), with the inference the spec marks as its own in 70_reset_and_hazards.md section 2, "That holds when the corrupted sequence leaves `status` in AwaitLeaderLow, AwaitBitLow or AwaitBitPair": from an armed block in any state but AwaitLeaderHigh, the 66 widths of FRAME fill the buffer, end in AwaitLeaderLow, and emit exactly one key when the command bytes pass the checksum and none otherwise. -/
def Obligations.FrameEmitsItsKeyIffChecksumPasses : Prop :=
  ∀ (s : State) (a0 a1 c ci : Byte), s.config.wellFormed = true → s.config.defaultWindows →
    s.Inv → s.regs.armed = true → s.regs.status ≠ .awaitLeaderHigh →
    ∃ t, run 66 (s.presentAll (frameEvents a0 a1 c ci)) = .next t ∧
      t.regs = { s.regs with
        status := .awaitLeaderLow
        rxBuf := ⟨a0, a1, c, ci⟩
        lowWidth := 56#16
        byteAcc := 0#8
        bitCount := 32#6
        repeatCount := if c.toNat + ci.toNat = 255 then 0#8 else s.regs.repeatCount
        lastValidCmd :=
          if c.toNat + ci.toNat = 255 ∧ s.config.repeatSource = .lastvalid then c
          else s.regs.lastValidCmd } ∧
      t.keys = s.keys ++ (if c.toNat + ci.toNat = 255 then [c + s.config.keyBase] else []) ∧
      t.events = s.events

/-- The inference the spec marks as its own in 70_reset_and_hazards.md section 2 (the blind spot): "The valid frame's leader-low is then consumed by the mismatch", "and the frame is lost". From AwaitLeaderHigh the whole of a frame goes by with no key, and only `status` changes. -/
def Obligations.FrameAfterStrayLeaderIsLost : Prop :=
  ∀ (s : State) (a0 a1 c ci : Byte), s.config.wellFormed = true → s.config.defaultWindows →
    s.regs.armed = true → s.regs.status = .awaitLeaderHigh →
    run 66 (s.presentAll (frameEvents a0 a1 c ci)) = .next { s with
      regs := { s.regs with status := .awaitLeaderLow }
      keyOut := none }

-- The repeat filter and the keys (43_repeat_filter.md, 60_exceptions.md section 7)

/-- The inference the spec marks as its own in 43_repeat_filter.md (Property P4): after a valid frame, the first `REPEAT_FILTER` markers emit nothing and every later one emits the frame's key again, in both `REPEAT_SOURCE` modes. -/
def Obligations.RepeatKeysFollowTheFilter : Prop :=
  ∀ (s : State) (a0 a1 c ci : Byte) (n : Nat), s.config.wellFormed = true → s.config.defaultWindows →
    s.config.repeatEmitEn = true → s.Inv → s.regs.armed = true → s.regs.status ≠ .awaitLeaderHigh →
    c.toNat + ci.toNat = 255 →
    ∃ t, run (66 + 2 * n)
        (s.presentAll (frameEvents a0 a1 c ci ++ (List.replicate n repeatMarkEvents).flatten)) = .next t ∧
      t.keys = s.keys ++ [c + s.config.keyBase] ++
        List.replicate (n - s.config.repeatFilter) (c + s.config.keyBase) ∧
      t.regs.repeatCount.toNat = min n s.config.repeatFilter ∧ t.events = s.events

/-- R216: a step drives a key for one of two causes only, each by a width its event handed to DECODE. A frame key: the width completed a 32-bit frame, and the frame passes the checksum. A repeat key: AwaitLeaderHigh took the width as a repeat marker with the filter met and repeat keys enabled. That no other branch emits is the inference the spec marks as its own in 42_frame_decoder.md section 1, "One DECODE call emits at most one key". -/
def Obligations.EveryKeyHasItsCause : Prop :=
  ∀ (s t : State) (k : Byte), step s = .next t → t.keyOut = some k →
    ∃ ev i w, s.events = ev :: t.events ∧ decode ev = .event i ∧ s.delivers i w ∧
      ((s.completesFrame w ∧ t.regs.bitCount = 32#6 ∧
        t.regs.rxBuf.command.toNat + t.regs.rxBuf.commandInverted.toNat = 255 ∧
        t.regs.repeatCount = 0#8 ∧ k = t.regs.rxBuf.command + s.config.keyBase) ∨
       (s.takesMarker w ∧ s.config.repeatFilter ≤ s.regs.repeatCount.toNat ∧
        s.config.repeatEmitEn = true ∧ t.regs.repeatCount = s.regs.repeatCount ∧
        k = (if s.config.repeatSource = .rxbuf then s.regs.rxBuf.command else s.regs.lastValidCmd)
          + s.config.keyBase))

/-- R183, R184: `repeatCount` changes only by a checksum-valid frame (to 0), an accepted marker below the filter (by one), RESET, and START when `START_CLEARS_REPEAT`. So a failed or abandoned frame, a mismatch, a stray pulse and STOP leave it. -/
def Obligations.RepeatCountChangesOnlyAsStated : Prop :=
  ∀ (s : State) (i : Instr), ∃ t, exec i s = .next t ∧
    (t.regs.repeatCount = s.regs.repeatCount ∨
     (i = .reset ∧ t.regs.repeatCount = 0#8) ∨
     (i = .start ∧ s.config.startClearsRepeat = true ∧ t.regs.repeatCount = 0#8) ∨
     (∃ w, s.delivers i w ∧ s.completesFrame w ∧ t.regs.bitCount = 32#6 ∧
       t.regs.rxBuf.command.toNat + t.regs.rxBuf.commandInverted.toNat = 255 ∧
       t.regs.repeatCount = 0#8) ∨
     (∃ w, s.delivers i w ∧ s.takesMarker w ∧ s.regs.repeatCount.toNat < s.config.repeatFilter ∧
       t.regs.repeatCount = s.regs.repeatCount + 1#8))

/-- R24: a slot is written only as a whole byte, by the accepted bit that completes it, or cleared by RESET, or by START when `START_CLEARS_REPEAT`; every other slot keeps its value. -/
def Obligations.SlotsChangeOnlyAtByteBoundaries : Prop :=
  ∀ (s : State) (i : Instr) (k : Fin 4), ∃ t, exec i s = .next t ∧
    (t.regs.rxBuf.slot k = s.regs.rxBuf.slot k ∨
     (i = .reset ∧ t.regs.rxBuf.slot k = 0#8) ∨
     (i = .start ∧ s.config.startClearsRepeat = true ∧ t.regs.rxBuf.slot k = 0#8) ∨
     (∃ w bit, s.delivers i w ∧ s.regs.status = .awaitBitPair ∧ s.config.takesBit bit (s.total w) ∧
       s.regs.bitCount.toNat + 1 = 8 * (k.val + 1) ∧ t.regs.bitCount = s.regs.bitCount + 1#6 ∧
       t.regs.rxBuf.slot k =
         BitVec.ofNat 8 (s.regs.byteAcc.toNat / 2 + (if bit then 128 else 0))))

/-- The inference the spec marks as its own in 43_repeat_filter.md, "With this variant, every key the block emits carries a command byte that passed the checksum, with one exception": with `REPEAT_SOURCE = LASTVALID`, every key carries the command in `lastValidCmd`, and that register changes only to the command of a frame that this step completed and that passed the checksum, or is cleared by RESET or a clearing START. -/
def Obligations.LastValidKeysPassedTheChecksum : Prop :=
  ∀ s t : State, s.config.repeatSource = .lastvalid → step s = .next t →
    (∀ k, t.keyOut = some k → k = t.regs.lastValidCmd + s.config.keyBase) ∧
    (t.regs.lastValidCmd ≠ s.regs.lastValidCmd →
      ∃ ev i, s.events = ev :: t.events ∧ decode ev = .event i ∧
        ((∃ w, s.delivers i w ∧ s.completesFrame w ∧ t.regs.bitCount = 32#6 ∧
            t.regs.rxBuf.command.toNat + t.regs.rxBuf.commandInverted.toNat = 255 ∧
            t.regs.lastValidCmd = t.regs.rxBuf.command ∧
            t.keyOut = some (t.regs.lastValidCmd + s.config.keyBase)) ∨
         ((i = .reset ∨ (i = .start ∧ s.config.startClearsRepeat = true)) ∧
            t.regs.lastValidCmd = 0#8 ∧ t.keyOut = none)))

/-- R157: the address bytes are never tested. Replacing them in any state changes nothing a run does but those bytes themselves. -/
def Obligations.AddressBytesAreNeverTested : Prop :=
  ∀ (n : Nat) (s t : State) (a0 a1 : Byte), run n s = .next t →
    ∃ b0 b1, run n
        { s with regs := { s.regs with
          rxBuf := { s.regs.rxBuf with addressLow := a0, addressHigh := a1 } } } =
      .next { t with regs := { t.regs with
        rxBuf := { t.regs.rxBuf with addressLow := b0, addressHigh := b1 } } }

-- The whole machine

/-- The inference the spec marks as its own in 10_state.md section 3, "The following invariants hold after every step": every step keeps them, from every state that has them. Its clause (f) is stated as the model's log entry 19 says. -/
def Obligations.StepKeepsTheInvariants : Prop :=
  ∀ s t : State, s.Inv → step s = .next t → t.Inv

/-- The invariants of 10_state.md section 3 hold after reset, under every configuration. -/
def Obligations.ResetHasTheInvariants : Prop :=
  State.reset.Inv ∧ ∀ c : Config, (State.powerOn c).Inv

/-- R29: START sets `armed`, STOP and RESET clear it, and no other event changes it. -/
def Obligations.ArmedFollowsStartStopReset : Prop :=
  ∀ (s : State) (i : Instr), ∃ t, exec i s = .next t ∧ t.regs.armed = armedAfter s.regs.armed i

/-- R215: in the stopped block no stream of EDGE and WIDTH events has an effect on any register or emits any key, however long. -/
def Obligations.StoppedBlockStaysQuiet : Prop :=
  ∀ (s : State) (is : List Instr), s.config.wellFormed = true → s.regs.armed = false →
    s.keyOut = none → (∀ i ∈ is, isData i = true) →
    run is.length (s.presentAll is) = .next s

/-- R207, D26: pins that are high together are serialised RESET, STOP, START, then the data event; each is presented exactly when its pin is. -/
def Obligations.PinsAreSerialisedInOrder : Prop :=
  ∀ p : Pins,
    p.serialize = ([(p.reset, Instr.reset), (p.stop, .stop), (p.start, .start)].filter Prod.fst).map Prod.snd
      ++ (p.data.map DataEvent.toInstr).toList
end

