-- ==== Sys2Proof/Laws/State.lean ====
section
/-! SUPPORT. One lemma per field per update of the registers and of the machine. -/

namespace Sys2Proof.Machine

section Registers
variable (r : Registers)

@[simp] theorem Registers.goto_status (st : Status) : (r.goto st).status = st := rfl
@[simp] theorem Registers.goto_lastCapture (st : Status) : (r.goto st).lastCapture = r.lastCapture := rfl
@[simp] theorem Registers.goto_rxBuf (st : Status) : (r.goto st).rxBuf = r.rxBuf := rfl
@[simp] theorem Registers.goto_repeatCount (st : Status) : (r.goto st).repeatCount = r.repeatCount := rfl
@[simp] theorem Registers.goto_lowWidth (st : Status) : (r.goto st).lowWidth = r.lowWidth := rfl
@[simp] theorem Registers.goto_byteAcc (st : Status) : (r.goto st).byteAcc = r.byteAcc := rfl
@[simp] theorem Registers.goto_bitCount (st : Status) : (r.goto st).bitCount = r.bitCount := rfl
@[simp] theorem Registers.goto_armed (st : Status) : (r.goto st).armed = r.armed := rfl
@[simp] theorem Registers.goto_baselineValid (st : Status) : (r.goto st).baselineValid = r.baselineValid := rfl
@[simp] theorem Registers.goto_lastValidCmd (st : Status) : (r.goto st).lastValidCmd = r.lastValidCmd := rfl

@[simp] theorem Registers.beginFrame_status : (r.beginFrame).status = .awaitBitLow := rfl
@[simp] theorem Registers.beginFrame_lastCapture : (r.beginFrame).lastCapture = r.lastCapture := rfl
@[simp] theorem Registers.beginFrame_rxBuf : (r.beginFrame).rxBuf = r.rxBuf := rfl
@[simp] theorem Registers.beginFrame_repeatCount : (r.beginFrame).repeatCount = r.repeatCount := rfl
@[simp] theorem Registers.beginFrame_lowWidth : (r.beginFrame).lowWidth = r.lowWidth := rfl
@[simp] theorem Registers.beginFrame_byteAcc : (r.beginFrame).byteAcc = 0x00#8 := rfl
@[simp] theorem Registers.beginFrame_bitCount : (r.beginFrame).bitCount = 0#6 := rfl
@[simp] theorem Registers.beginFrame_armed : (r.beginFrame).armed = r.armed := rfl
@[simp] theorem Registers.beginFrame_baselineValid : (r.beginFrame).baselineValid = r.baselineValid := rfl
@[simp] theorem Registers.beginFrame_lastValidCmd : (r.beginFrame).lastValidCmd = r.lastValidCmd := rfl

@[simp] theorem Registers.rememberLow_status (w : Ticks) : (r.rememberLow w).status = .awaitBitPair := rfl
@[simp] theorem Registers.rememberLow_lastCapture (w : Ticks) : (r.rememberLow w).lastCapture = r.lastCapture := rfl
@[simp] theorem Registers.rememberLow_rxBuf (w : Ticks) : (r.rememberLow w).rxBuf = r.rxBuf := rfl
@[simp] theorem Registers.rememberLow_repeatCount (w : Ticks) : (r.rememberLow w).repeatCount = r.repeatCount := rfl
@[simp] theorem Registers.rememberLow_lowWidth (w : Ticks) : (r.rememberLow w).lowWidth = w := rfl
@[simp] theorem Registers.rememberLow_byteAcc (w : Ticks) : (r.rememberLow w).byteAcc = r.byteAcc := rfl
@[simp] theorem Registers.rememberLow_bitCount (w : Ticks) : (r.rememberLow w).bitCount = r.bitCount := rfl
@[simp] theorem Registers.rememberLow_armed (w : Ticks) : (r.rememberLow w).armed = r.armed := rfl
@[simp] theorem Registers.rememberLow_baselineValid (w : Ticks) : (r.rememberLow w).baselineValid = r.baselineValid := rfl
@[simp] theorem Registers.rememberLow_lastValidCmd (w : Ticks) : (r.rememberLow w).lastValidCmd = r.lastValidCmd := rfl

@[simp] theorem Registers.shiftBit_status (bit : Bool) : (r.shiftBit bit).status = r.status := rfl
@[simp] theorem Registers.shiftBit_lastCapture (bit : Bool) : (r.shiftBit bit).lastCapture = r.lastCapture := rfl
@[simp] theorem Registers.shiftBit_rxBuf (bit : Bool) : (r.shiftBit bit).rxBuf = r.rxBuf := rfl
@[simp] theorem Registers.shiftBit_repeatCount (bit : Bool) : (r.shiftBit bit).repeatCount = r.repeatCount := rfl
@[simp] theorem Registers.shiftBit_lowWidth (bit : Bool) : (r.shiftBit bit).lowWidth = r.lowWidth := rfl
@[simp] theorem Registers.shiftBit_byteAcc (bit : Bool) : (r.shiftBit bit).byteAcc = shiftIn bit r.byteAcc := rfl
@[simp] theorem Registers.shiftBit_bitCount (bit : Bool) : (r.shiftBit bit).bitCount = r.bitCount + 1#6 := rfl
@[simp] theorem Registers.shiftBit_armed (bit : Bool) : (r.shiftBit bit).armed = r.armed := rfl
@[simp] theorem Registers.shiftBit_baselineValid (bit : Bool) : (r.shiftBit bit).baselineValid = r.baselineValid := rfl
@[simp] theorem Registers.shiftBit_lastValidCmd (bit : Bool) : (r.shiftBit bit).lastValidCmd = r.lastValidCmd := rfl

@[simp] theorem Registers.acceptFrame_status (c : Config) : (r.acceptFrame c).status = r.status := rfl
@[simp] theorem Registers.acceptFrame_lastCapture (c : Config) : (r.acceptFrame c).lastCapture = r.lastCapture := rfl
@[simp] theorem Registers.acceptFrame_rxBuf (c : Config) : (r.acceptFrame c).rxBuf = r.rxBuf := rfl
@[simp] theorem Registers.acceptFrame_repeatCount (c : Config) : (r.acceptFrame c).repeatCount = 0x00#8 := rfl
@[simp] theorem Registers.acceptFrame_lowWidth (c : Config) : (r.acceptFrame c).lowWidth = r.lowWidth := rfl
@[simp] theorem Registers.acceptFrame_byteAcc (c : Config) : (r.acceptFrame c).byteAcc = r.byteAcc := rfl
@[simp] theorem Registers.acceptFrame_bitCount (c : Config) : (r.acceptFrame c).bitCount = r.bitCount := rfl
@[simp] theorem Registers.acceptFrame_armed (c : Config) : (r.acceptFrame c).armed = r.armed := rfl
@[simp] theorem Registers.acceptFrame_baselineValid (c : Config) : (r.acceptFrame c).baselineValid = r.baselineValid := rfl
@[simp] theorem Registers.acceptFrame_lastValidCmd (c : Config) : (r.acceptFrame c).lastValidCmd = if c.repeatSource = .lastvalid then r.rxBuf.command else r.lastValidCmd := by
  cases h : c.repeatSource <;> simp [Registers.acceptFrame, h]

@[simp] theorem Registers.arm_status : (r.arm).status = r.status := rfl
@[simp] theorem Registers.arm_lastCapture : (r.arm).lastCapture = r.lastCapture := rfl
@[simp] theorem Registers.arm_rxBuf : (r.arm).rxBuf = r.rxBuf := rfl
@[simp] theorem Registers.arm_repeatCount : (r.arm).repeatCount = r.repeatCount := rfl
@[simp] theorem Registers.arm_lowWidth : (r.arm).lowWidth = r.lowWidth := rfl
@[simp] theorem Registers.arm_byteAcc : (r.arm).byteAcc = r.byteAcc := rfl
@[simp] theorem Registers.arm_bitCount : (r.arm).bitCount = r.bitCount := rfl
@[simp] theorem Registers.arm_armed : (r.arm).armed = true := rfl
@[simp] theorem Registers.arm_baselineValid : (r.arm).baselineValid = r.baselineValid := rfl
@[simp] theorem Registers.arm_lastValidCmd : (r.arm).lastValidCmd = r.lastValidCmd := rfl

@[simp] theorem Registers.disarm_status : (r.disarm).status = r.status := rfl
@[simp] theorem Registers.disarm_lastCapture : (r.disarm).lastCapture = r.lastCapture := rfl
@[simp] theorem Registers.disarm_rxBuf : (r.disarm).rxBuf = r.rxBuf := rfl
@[simp] theorem Registers.disarm_repeatCount : (r.disarm).repeatCount = r.repeatCount := rfl
@[simp] theorem Registers.disarm_lowWidth : (r.disarm).lowWidth = r.lowWidth := rfl
@[simp] theorem Registers.disarm_byteAcc : (r.disarm).byteAcc = r.byteAcc := rfl
@[simp] theorem Registers.disarm_bitCount : (r.disarm).bitCount = r.bitCount := rfl
@[simp] theorem Registers.disarm_armed : (r.disarm).armed = false := rfl
@[simp] theorem Registers.disarm_baselineValid : (r.disarm).baselineValid = r.baselineValid := rfl
@[simp] theorem Registers.disarm_lastValidCmd : (r.disarm).lastValidCmd = r.lastValidCmd := rfl

@[simp] theorem Registers.latch_status (c : Ticks) : (r.latch c).status = r.status := rfl
@[simp] theorem Registers.latch_lastCapture (c : Ticks) : (r.latch c).lastCapture = c := rfl
@[simp] theorem Registers.latch_rxBuf (c : Ticks) : (r.latch c).rxBuf = r.rxBuf := rfl
@[simp] theorem Registers.latch_repeatCount (c : Ticks) : (r.latch c).repeatCount = r.repeatCount := rfl
@[simp] theorem Registers.latch_lowWidth (c : Ticks) : (r.latch c).lowWidth = r.lowWidth := rfl
@[simp] theorem Registers.latch_byteAcc (c : Ticks) : (r.latch c).byteAcc = r.byteAcc := rfl
@[simp] theorem Registers.latch_bitCount (c : Ticks) : (r.latch c).bitCount = r.bitCount := rfl
@[simp] theorem Registers.latch_armed (c : Ticks) : (r.latch c).armed = r.armed := rfl
@[simp] theorem Registers.latch_baselineValid (c : Ticks) : (r.latch c).baselineValid = true := rfl
@[simp] theorem Registers.latch_lastValidCmd (c : Ticks) : (r.latch c).lastValidCmd = r.lastValidCmd := rfl

@[simp] theorem Registers.clearFrame_status : (r.clearFrame).status = .awaitLeaderLow := rfl
@[simp] theorem Registers.clearFrame_lastCapture : (r.clearFrame).lastCapture = 0#16 := rfl
@[simp] theorem Registers.clearFrame_rxBuf : (r.clearFrame).rxBuf = r.rxBuf := rfl
@[simp] theorem Registers.clearFrame_repeatCount : (r.clearFrame).repeatCount = r.repeatCount := rfl
@[simp] theorem Registers.clearFrame_lowWidth : (r.clearFrame).lowWidth = 0#16 := rfl
@[simp] theorem Registers.clearFrame_byteAcc : (r.clearFrame).byteAcc = 0x00#8 := rfl
@[simp] theorem Registers.clearFrame_bitCount : (r.clearFrame).bitCount = 0#6 := rfl
@[simp] theorem Registers.clearFrame_armed : (r.clearFrame).armed = r.armed := rfl
@[simp] theorem Registers.clearFrame_baselineValid : (r.clearFrame).baselineValid = false := rfl
@[simp] theorem Registers.clearFrame_lastValidCmd : (r.clearFrame).lastValidCmd = r.lastValidCmd := rfl

@[simp] theorem Registers.clearRepeat_status : (r.clearRepeat).status = r.status := rfl
@[simp] theorem Registers.clearRepeat_lastCapture : (r.clearRepeat).lastCapture = r.lastCapture := rfl
@[simp] theorem Registers.clearRepeat_rxBuf : (r.clearRepeat).rxBuf = RxBuf.reset := rfl
@[simp] theorem Registers.clearRepeat_repeatCount : (r.clearRepeat).repeatCount = 0x00#8 := rfl
@[simp] theorem Registers.clearRepeat_lowWidth : (r.clearRepeat).lowWidth = r.lowWidth := rfl
@[simp] theorem Registers.clearRepeat_byteAcc : (r.clearRepeat).byteAcc = r.byteAcc := rfl
@[simp] theorem Registers.clearRepeat_bitCount : (r.clearRepeat).bitCount = r.bitCount := rfl
@[simp] theorem Registers.clearRepeat_armed : (r.clearRepeat).armed = r.armed := rfl
@[simp] theorem Registers.clearRepeat_baselineValid : (r.clearRepeat).baselineValid = r.baselineValid := rfl
@[simp] theorem Registers.clearRepeat_lastValidCmd : (r.clearRepeat).lastValidCmd = 0x00#8 := rfl

/-- The byte store writes the receive buffer and the byte under construction only. -/
@[simp] theorem Registers.storeByte_status : r.storeByte.status = r.status := by
  unfold Registers.storeByte; split <;> rfl
@[simp] theorem Registers.storeByte_lastCapture : r.storeByte.lastCapture = r.lastCapture := by
  unfold Registers.storeByte; split <;> rfl
@[simp] theorem Registers.storeByte_repeatCount : r.storeByte.repeatCount = r.repeatCount := by
  unfold Registers.storeByte; split <;> rfl
@[simp] theorem Registers.storeByte_lowWidth : r.storeByte.lowWidth = r.lowWidth := by
  unfold Registers.storeByte; split <;> rfl
@[simp] theorem Registers.storeByte_bitCount : r.storeByte.bitCount = r.bitCount := by
  unfold Registers.storeByte; split <;> rfl
@[simp] theorem Registers.storeByte_armed : r.storeByte.armed = r.armed := by
  unfold Registers.storeByte; split <;> rfl
@[simp] theorem Registers.storeByte_baselineValid : r.storeByte.baselineValid = r.baselineValid := by
  unfold Registers.storeByte; split <;> rfl
@[simp] theorem Registers.storeByte_lastValidCmd : r.storeByte.lastValidCmd = r.lastValidCmd := by
  unfold Registers.storeByte; split <;> rfl

theorem Registers.storeByte_of_slot {i : Fin 4} (h : byteSlot r.bitCount = some i) :
    r.storeByte = { r with rxBuf := r.rxBuf.store i r.byteAcc, byteAcc := 0x00#8 } := by
  simp [Registers.storeByte, h]

theorem Registers.storeByte_of_no_slot (h : byteSlot r.bitCount = none) : r.storeByte = r := by
  simp [Registers.storeByte, h]

end Registers

section RxBuf
variable (b : RxBuf)

theorem RxBuf.slot_store_same (i : Fin 4) (v : Byte) : (b.store i v).slot i = v := by
  match i with
  | 0 => rfl
  | 1 => rfl
  | 2 => rfl
  | 3 => rfl

theorem RxBuf.slot_store_other {i j : Fin 4} (v : Byte) (h : i ≠ j) : (b.store i v).slot j = b.slot j := by
  match i, j with
  | 0, 0 => exact absurd rfl h
  | 0, 1 => rfl
  | 0, 2 => rfl
  | 0, 3 => rfl
  | 1, 0 => rfl
  | 1, 1 => exact absurd rfl h
  | 1, 2 => rfl
  | 1, 3 => rfl
  | 2, 0 => rfl
  | 2, 1 => rfl
  | 2, 2 => exact absurd rfl h
  | 2, 3 => rfl
  | 3, 0 => rfl
  | 3, 1 => rfl
  | 3, 2 => rfl
  | 3, 3 => exact absurd rfl h

end RxBuf

section State
variable (s : State)

@[simp] theorem State.finish_config (e : Effect) : (s.finish e).config = s.config := rfl
@[simp] theorem State.finish_regs (e : Effect) : (s.finish e).regs = e.regs := rfl
@[simp] theorem State.finish_events (e : Effect) : (s.finish e).events = s.events := rfl
@[simp] theorem State.finish_keyOut (e : Effect) : (s.finish e).keyOut = e.key := rfl
@[simp] theorem State.finish_keys (e : Effect) : (s.finish e).keys = s.keys ++ e.key.toList := rfl

@[simp] theorem State.present_config (ev : EventWord) : (s.present ev).config = s.config := rfl
@[simp] theorem State.present_regs (ev : EventWord) : (s.present ev).regs = s.regs := rfl
@[simp] theorem State.present_events (ev : EventWord) : (s.present ev).events = ev :: s.events := rfl
@[simp] theorem State.present_keyOut (ev : EventWord) : (s.present ev).keyOut = s.keyOut := rfl
@[simp] theorem State.present_keys (ev : EventWord) : (s.present ev).keys = s.keys := rfl

@[simp] theorem State.presentAll_config (is : List Instr) : (s.presentAll is).config = s.config := rfl
@[simp] theorem State.presentAll_regs (is : List Instr) : (s.presentAll is).regs = s.regs := rfl
@[simp] theorem State.presentAll_events (is : List Instr) :
    (s.presentAll is).events = is.map encode ++ s.events := rfl
@[simp] theorem State.presentAll_keyOut (is : List Instr) : (s.presentAll is).keyOut = s.keyOut := rfl
@[simp] theorem State.presentAll_keys (is : List Instr) : (s.presentAll is).keys = s.keys := rfl

@[simp] theorem State.powerOn_config (c : Config) : (State.powerOn c).config = c := rfl
@[simp] theorem State.powerOn_regs (c : Config) : (State.powerOn c).regs = Registers.reset := rfl
@[simp] theorem State.powerOn_events (c : Config) : (State.powerOn c).events = [] := rfl
@[simp] theorem State.powerOn_keyOut (c : Config) : (State.powerOn c).keyOut = none := rfl
@[simp] theorem State.powerOn_keys (c : Config) : (State.powerOn c).keys = [] := rfl

end State

end Sys2Proof.Machine
end

