-- ==== Sys2Proof/Laws/Ops.lean ====
section
/-! SUPPORT. What each shared operation can do: one lemma each for the windows, REPEAT, the DECODE branches, DECODE and the serializer. -/

namespace Sys2Proof.Machine

theorem inWindow_iff (v : Nat) (win : Window) : inWindow v win = true ↔ win.min ≤ v ∧ v ≤ win.max := by
  simp [inWindow]

theorem captureWidth_toNat (c last : Ticks) :
    (captureWidth c last).toNat = (65536 + c.toNat - last.toNat) % 65536 := by
  simp only [captureWidth, BitVec.toNat_sub]
  have := last.isLt
  congr 1
  omega

/-- The checksum gate as a comparison of numbers (R159). -/
theorem checksumOk_iff (b : RxBuf) :
    checksumOk b = true ↔ b.command.toNat + b.commandInverted.toNat = 255 := by
  have h2 := b.command.isLt
  have h3 := b.commandInverted.isLt
  simp only [checksumOk, beq_iff_eq, ← BitVec.toNat_inj, BitVec.toNat_add, BitVec.toNat_ofNat]
  omega

/-- REPEAT in its two cases (R181). -/
theorem repeatMarker_below {c : Config} {r : Registers} (h : r.repeatCount.toNat < c.repeatFilter) :
    repeatMarker c r = ⟨{ r with repeatCount := r.repeatCount + 1#8 }, none⟩ := by
  simp [repeatMarker, filterMet, Nat.not_le.mpr h]

theorem repeatMarker_met {c : Config} {r : Registers} (h : c.repeatFilter ≤ r.repeatCount.toNat) :
    repeatMarker c r = ⟨r, if c.repeatEmitEn then some (keyCode c (repeatCmd c r)) else none⟩ := by
  simp [repeatMarker, filterMet, h]

/-- REPEAT writes `repeatCount` only. -/
theorem repeatMarker_regs (c : Config) (r : Registers) :
    (repeatMarker c r).regs = { r with repeatCount := (repeatMarker c r).regs.repeatCount } := by
  unfold repeatMarker
  split <;> rfl

/-- DECODE never needs a third dispatch (R142): a `redo` runs under AwaitLeaderLow, which ends. -/
theorem dispatch_leaderLow_done (c : Config) (w : Ticks) {r : Registers} (h : r.status = .awaitLeaderLow) :
    dispatch c w r =
      .done ⟨if inWindow w.toNat c.leaderLow then r.goto .awaitLeaderHigh else r, none⟩ := by
  simp only [dispatch, h, dispatchLeaderLow]
  split <;> rfl

theorem dispatch_redo_status {c : Config} {w : Ticks} {r r' : Registers} (h : dispatch c w r = .redo r') :
    r' = r.goto .awaitLeaderLow := by
  unfold dispatch dispatchLeaderLow dispatchLeaderHigh dispatchBitLow dispatchBitPair at h
  split at h <;> split at h <;> (try split at h) <;> cases h <;> rfl

theorem decodePulse_ends (c : Config) (w : Ticks) (r : Registers) (n : Nat) :
    decodeLoop c w (n + 2) r = decodePulse c w r := by
  simp only [decodePulse, decodeLoop]
  cases h : dispatch c w r with
  | done e => rfl
  | redo r' =>
    obtain rfl := dispatch_redo_status h
    simp only [dispatch_leaderLow_done c w (Registers.goto_status r .awaitLeaderLow)]

/-- A rejected pulse is offered to AwaitLeaderLow again (R142). -/
def redoEffect (c : Config) (w : Ticks) (r : Registers) : Effect :=
  ⟨r.goto (if inWindow w.toNat c.leaderLow then .awaitLeaderHigh else .awaitLeaderLow), none⟩

theorem decodePulse_of_done {c : Config} {w : Ticks} {r : Registers} {e : Effect}
    (h : dispatch c w r = .done e) : decodePulse c w r = e := by
  simp [decodePulse, decodeLoop, h]

theorem decodePulse_of_redo {c : Config} {w : Ticks} {r r' : Registers} (h : dispatch c w r = .redo r') :
    decodePulse c w r = redoEffect c w r := by
  have h' := h
  obtain rfl := dispatch_redo_status h
  simp only [decodePulse, decodeLoop, h', dispatch_leaderLow_done _ _ (Registers.goto_status ..), redoEffect]
  split <;> rfl

/-- DECODE in AwaitLeaderLow (R143). -/
theorem decodePulse_leaderLow (c : Config) (w : Ticks) {r : Registers} (h : r.status = .awaitLeaderLow) :
    decodePulse c w r = ⟨if inWindow w.toNat c.leaderLow then r.goto .awaitLeaderHigh else r, none⟩ :=
  decodePulse_of_done (dispatch_leaderLow_done c w h)

/-- DECODE in AwaitLeaderHigh (R144, R145, R146). -/
theorem decodePulse_leaderHigh (c : Config) (w : Ticks) {r : Registers} (h : r.status = .awaitLeaderHigh) :
    decodePulse c w r =
      if inWindow w.toNat c.leaderHigh then ⟨r.beginFrame, none⟩
      else if inWindow w.toNat c.repeatHigh then
        ⟨(repeatMarker c r).regs.goto .awaitLeaderLow, (repeatMarker c r).key⟩
      else ⟨r.goto .awaitLeaderLow, none⟩ := by
  apply decodePulse_of_done
  simp only [dispatch, h, dispatchLeaderHigh]
  split
  · rfl
  · split <;> rfl

/-- DECODE in AwaitBitLow (R147, R148). -/
theorem decodePulse_bitLow (c : Config) (w : Ticks) {r : Registers} (h : r.status = .awaitBitLow) :
    decodePulse c w r =
      if inWindow w.toNat c.bitLow then ⟨r.rememberLow w, none⟩ else redoEffect c w r := by
  split
  · exact decodePulse_of_done (by simp_all [dispatch, dispatchBitLow])
  · exact decodePulse_of_redo (r' := r.goto .awaitLeaderLow) (by simp_all [dispatch, dispatchBitLow])

/-- DECODE in AwaitBitPair (R149 to R158). -/
theorem decodePulse_bitPair (c : Config) (w : Ticks) {r : Registers} (h : r.status = .awaitBitPair) :
    decodePulse c w r =
      match pairBit c (pairTotal c r.lowWidth w) with
      | some bit => acceptBit c bit r
      | none => redoEffect c w r := by
  split
  · rename_i bit hb
    exact decodePulse_of_done (by simp_all [dispatch, dispatchBitPair])
  · rename_i hb
    exact decodePulse_of_redo (r' := r.goto .awaitLeaderLow) (by simp_all [dispatch, dispatchBitPair])

/-- Everything an accepted bit can do (R153 to R158). -/
theorem acceptBit_cases (c : Config) (bit : Bool) (r : Registers) :
    (r.bitCount + 1#6 ≠ 32#6 ∧
      acceptBit c bit r = ⟨(r.shiftBit bit).storeByte.goto .awaitBitLow, none⟩) ∨
    (r.bitCount + 1#6 = 32#6 ∧ checksumOk (r.shiftBit bit).storeByte.rxBuf = false ∧
      acceptBit c bit r = ⟨(r.shiftBit bit).storeByte.goto .awaitLeaderLow, none⟩) ∨
    (r.bitCount + 1#6 = 32#6 ∧ checksumOk (r.shiftBit bit).storeByte.rxBuf = true ∧
      acceptBit c bit r =
        ⟨((r.shiftBit bit).storeByte.acceptFrame c).goto .awaitLeaderLow,
          some (keyCode c (r.shiftBit bit).storeByte.rxBuf.command)⟩) := by
  by_cases hb : r.bitCount + 1#6 = 32#6
  · cases hc : checksumOk (r.shiftBit bit).storeByte.rxBuf
    · exact .inr (.inl ⟨hb, rfl, by simp [acceptBit, completeFrame, hb, hc]⟩)
    · exact .inr (.inr ⟨hb, rfl, by simp [acceptBit, completeFrame, hb, hc]⟩)
  · exact .inl ⟨hb, by simp [acceptBit, hb]⟩

/-- Everything DECODE can do to the registers and the key, by the status it finds. -/
theorem decodePulse_cases (c : Config) (w : Ticks) (r : Registers) :
    (r.status = .awaitLeaderLow ∧
      decodePulse c w r = ⟨if inWindow w.toNat c.leaderLow then r.goto .awaitLeaderHigh else r, none⟩) ∨
    (r.status = .awaitLeaderHigh ∧ inWindow w.toNat c.leaderHigh = true ∧
      decodePulse c w r = ⟨r.beginFrame, none⟩) ∨
    (r.status = .awaitLeaderHigh ∧ inWindow w.toNat c.leaderHigh = false ∧
      inWindow w.toNat c.repeatHigh = true ∧
      decodePulse c w r = ⟨(repeatMarker c r).regs.goto .awaitLeaderLow, (repeatMarker c r).key⟩) ∨
    (r.status = .awaitLeaderHigh ∧ inWindow w.toNat c.leaderHigh = false ∧
      inWindow w.toNat c.repeatHigh = false ∧ decodePulse c w r = ⟨r.goto .awaitLeaderLow, none⟩) ∨
    (r.status = .awaitBitLow ∧ inWindow w.toNat c.bitLow = true ∧
      decodePulse c w r = ⟨r.rememberLow w, none⟩) ∨
    (r.status = .awaitBitLow ∧ inWindow w.toNat c.bitLow = false ∧
      decodePulse c w r = redoEffect c w r) ∨
    (r.status = .awaitBitPair ∧ pairBit c (pairTotal c r.lowWidth w) = none ∧
      decodePulse c w r = redoEffect c w r) ∨
    (r.status = .awaitBitPair ∧ ∃ bit, pairBit c (pairTotal c r.lowWidth w) = some bit ∧
      decodePulse c w r = acceptBit c bit r) := by
  cases h : r.status with
  | awaitLeaderLow => simp [decodePulse_leaderLow c w h]
  | awaitLeaderHigh =>
    cases hf : inWindow w.toNat c.leaderHigh <;> cases hr : inWindow w.toNat c.repeatHigh <;>
      simp [decodePulse_leaderHigh c w h, hf, hr]
  | awaitBitLow =>
    cases hl : inWindow w.toNat c.bitLow <;> simp [decodePulse_bitLow c w h, hl]
  | awaitBitPair =>
    cases hp : pairBit c (pairTotal c r.lowWidth w) <;> simp [decodePulse_bitPair c w h, hp]

/-- DECODE writes neither the serializer's registers nor `armed`. -/
theorem decodePulse_frame (c : Config) (w : Ticks) (r : Registers) :
    (decodePulse c w r).regs.lastCapture = r.lastCapture ∧
    (decodePulse c w r).regs.armed = r.armed ∧
    (decodePulse c w r).regs.baselineValid = r.baselineValid := by
  have hrep := repeatMarker_regs c r
  obtain ⟨_, h⟩ | ⟨_, _, h⟩ | ⟨_, _, _, h⟩ | ⟨_, _, _, h⟩ | ⟨_, _, h⟩ | ⟨_, _, h⟩ | ⟨_, _, h⟩ | ⟨_, bit, _, h⟩ :=
    decodePulse_cases c w r <;> rw [h]
  · dsimp only
    split <;> simp
  · simp
  · dsimp only
    rw [hrep]
    simp
  · simp
  · simp
  · simp [redoEffect]
  · simp [redoEffect]
  · obtain ⟨_, h⟩ | ⟨_, _, h⟩ | ⟨_, _, h⟩ := acceptBit_cases c bit r <;> rw [h] <;> simp

/-- The serializer's three cases for EDGE (R120). -/
theorem serializeEdge_disarmed {cfg : Config} {r : Registers} (c : Ticks) (h : r.armed = false) :
    serializeEdge cfg c r = ⟨r, none⟩ := by
  simp [serializeEdge, h]

theorem serializeEdge_baseline {cfg : Config} {r : Registers} (c : Ticks) (h : r.armed = true)
    (hb : baselinePending cfg r = true) : serializeEdge cfg c r = ⟨r.latch c, none⟩ := by
  simp [serializeEdge, h, hb]

theorem serializeEdge_decoded {cfg : Config} {r : Registers} (c : Ticks) (h : r.armed = true)
    (hb : baselinePending cfg r = false) :
    serializeEdge cfg c r = decodePulse cfg (captureWidth c r.lastCapture) (r.latch c) := by
  simp [serializeEdge, h, hb]

/-- The two cases of WIDTH (R126). -/
theorem serializeWidth_disarmed {cfg : Config} {r : Registers} (w : Ticks) (h : r.armed = false) :
    serializeWidth cfg w r = ⟨r, none⟩ := by
  simp [serializeWidth, h]

theorem serializeWidth_decoded {cfg : Config} {r : Registers} (w : Ticks) (h : r.armed = true) :
    serializeWidth cfg w r = decodePulse cfg w r := by
  simp [serializeWidth, h]

end Sys2Proof.Machine
end

