-- ==== Sys2Proof/Laws/Decode.lean ====
section
/-! SUPPORT. The fields of an event word, and the decoder by its `op` field. -/

namespace Sys2Proof

@[simp] theorem opField_append (op : BitVec 4) (val : Ticks) : opField (op ++ val) = op := by
  apply BitVec.eq_of_getLsbD_eq
  intro i hi
  have h : (op ++ val).getLsbD (16 + i) = op.getLsbD i := by
    simp only [BitVec.getLsbD_append]
    simp
  simpa [opField, BitVec.getLsbD_extractLsb', hi] using h

@[simp] theorem valField_append (op : BitVec 4) (val : Ticks) : valField (op ++ val) = val := by
  apply BitVec.eq_of_getLsbD_eq
  intro i hi
  have h : (op ++ val).getLsbD i = val.getLsbD i := by
    simp only [BitVec.getLsbD_append]
    simp [hi]
  simpa [valField, BitVec.getLsbD_extractLsb', hi] using h

/-- A word is its two fields (R70). -/
theorem fields_append (ev : EventWord) : opField ev ++ valField ev = ev := by
  apply BitVec.eq_of_getLsbD_eq
  intro i hi
  simp only [opField, valField, BitVec.getLsbD_append, BitVec.getLsbD_extractLsb']
  by_cases h : i < 16
  · simp [h]
  · have : i - 16 < 4 := by omega
    have e : 16 + (i - 16) = i := by omega
    simp [h, this, e]

theorem decode_append (op : BitVec 4) (val : Ticks) : decode (op ++ val) = decodeFields op val := by
  simp only [decode, opField_append, valField_append]

theorem decodePlain_zero (i : Instr) (op : BitVec 4) : decodePlain i op 0#16 = .event i := rfl

theorem decodePlain_ne_zero (i : Instr) (op : BitVec 4) {val : Ticks} (h : val ≠ 0#16) :
    decodePlain i op val = .reserved (.operand op val) := if_neg h

end Sys2Proof
end

