-- ==== Sys2Proof/Laws/Step.lean ====
section
/-! SUPPORT. Everything a step can do, and runs of a machine. -/

namespace Sys2Proof.Machine

/-- What an event does to the registers and the key. -/
def instrEffect (cfg : Config) (i : Instr) (r : Registers) : Effect :=
  match i with
  | .nop => ⟨r, none⟩
  | .reset => ⟨Registers.reset, none⟩
  | .start => ⟨(if cfg.startClearsRepeat then r.clearFrame.clearRepeat else r.clearFrame).arm, none⟩
  | .stop => ⟨r.disarm, none⟩
  | .edge c => serializeEdge cfg c r
  | .width w => serializeWidth cfg w r

/-- `exec` always answers a next state, and that state is the effect's. -/
theorem exec_eq_finish (i : Instr) (s : State) :
    exec i s = .next (s.finish (instrEffect s.config i s.regs)) := by
  cases i <;> rfl

/-- A step runs the decoded event, on the machine with that event taken off its port. -/
theorem step_of_event {s : State} {ev : EventWord} {rest : List EventWord} {i : Instr}
    (hc : s.config.wellFormed = true) (hev : s.events = ev :: rest) (hd : decode ev = .event i) :
    step s = .next (State.finish { s with events := rest } (instrEffect s.config i s.regs)) := by
  simp [step, hc, fetch, hev, hd, exec_eq_finish]

/-- Everything a step that answers a next state can have done. -/
theorem step_next_cases {s t : State} (h : step s = .next t) :
    s.config.wellFormed = true ∧ ∃ ev rest i, s.events = ev :: rest ∧ decode ev = .event i ∧
      t = State.finish { s with events := rest } (instrEffect s.config i s.regs) := by
  unfold step fetch at h
  split at h
  · rename_i hc
    refine ⟨hc, ?_⟩
    cases hev : s.events with
    | nil => simp [hev] at h
    | cons ev rest =>
      simp only [hev] at h
      cases hd : decode ev with
      | event i =>
        simp only [hd, exec_eq_finish, Host.Outcome.next.injEq] at h
        exact ⟨ev, rest, i, rfl, hd, h.symm⟩
      | reserved why => simp [hd] at h
  · cases h

@[simp] theorem run_zero (s : State) : run 0 s = .next s := rfl

/-- A run takes its first step, then the rest; it stops where that step stops. -/
theorem run_of_next {s t : State} (n : Nat) (h : step s = .next t) : run (n + 1) s = run n t := by
  have h' : core.step s = .next t := h
  simp only [run, Host.Core.run, h']
  rfl

theorem run_of_refused {s : State} {why : Refusal} (n : Nat) (h : step s = .refused why) :
    run (n + 1) s = .refused why := by
  have h' : core.step s = .refused why := h
  simp only [run, Host.Core.run, h']
  rfl

theorem run_of_fault {s : State} {why : Fault} (n : Nat) (h : step s = .fault why) :
    run (n + 1) s = .fault why := by
  have h' : core.step s = .fault why := h
  simp only [run, Host.Core.run, h']
  rfl

/-- The registers after a list of events, and the keys emitted on the way, in order. -/
def runEffect (cfg : Config) : List Instr → Registers → Registers × List Byte
  | [], r => (r, [])
  | i :: is, r =>
    let e := instrEffect cfg i r
    let (r', ks) := runEffect cfg is e.regs
    (r', e.key.toList ++ ks)

theorem runEffect_append (cfg : Config) (is js : List Instr) (r : Registers) :
    runEffect cfg (is ++ js) r =
      ((runEffect cfg js (runEffect cfg is r).1).1,
        (runEffect cfg is r).2 ++ (runEffect cfg js (runEffect cfg is r).1).2) := by
  induction is generalizing r with
  | nil => simp [runEffect]
  | cons i is ih => simp [runEffect, ih, List.append_assoc]

end Sys2Proof.Machine
end

