-- ==== Sys2Proof/Laws/Bits.lean ====
section
/-! SUPPORT. The tests in the form claims use them, the arithmetic of the byte under construction, and the outcomes of EDGE and WIDTH on an armed block. -/

namespace Sys2Proof.Machine

theorem inWindow_of_holds {win : Window} {v : Nat} (h : win.holds v) : inWindow v win = true :=
  (inWindow_iff v win).mpr h

theorem inWindow_of_not_holds {win : Window} {v : Nat} (h : ¬ win.holds v) : inWindow v win = false := by
  rw [← Bool.not_eq_true, inWindow_iff]
  exact h

theorem pairTotal_eq_total (c : Config) (low w : Ticks) : pairTotal c low w = c.total low w := rfl

/-- The bit-0 window comes first (R150, R151). -/
theorem pairBit_of_takesBit {c : Config} {bit : Bool} {total : Nat} (h : c.takesBit bit total) :
    pairBit c total = some bit := by
  cases bit
  · simp only [Config.takesBit, Bool.false_eq_true, if_false] at h
    simp [pairBit, inWindow_of_holds h]
  · simp only [Config.takesBit, if_true] at h
    simp [pairBit, inWindow_of_not_holds h.1, inWindow_of_holds h.2]

/-- A total in neither window is no bit (R152). -/
theorem pairBit_none_iff (c : Config) (total : Nat) :
    pairBit c total = none ↔ ¬ c.bit0.holds total ∧ ¬ c.bit1.holds total := by
  have h0 := inWindow_iff total c.bit0
  have h1 := inWindow_iff total c.bit1
  unfold pairBit Window.holds
  rw [← h0, ← h1]
  cases inWindow total c.bit0 <;> cases inWindow total c.bit1 <;> simp

/-- The shift of R153 as arithmetic. -/
theorem shiftIn_eq (bit : Bool) (acc : Byte) :
    shiftIn bit acc = BitVec.ofNat 8 (acc.toNat / 2 + (if bit then 128 else 0)) := by
  revert acc bit
  decide

/-- No store between byte boundaries (R154). -/
theorem byteSlot_none {n : BitVec 6} (h : n.toNat % 8 ≠ 0) : byteSlot n = none := by
  revert n
  decide

/-- The slot at a byte boundary (R154). -/
theorem byteSlot_succ {n : BitVec 6} {k : Fin 4} (h : n.toNat + 1 = 8 * (k.val + 1)) :
    byteSlot (n + 1#6) = some k := by
  revert n k
  decide

/-- An accepted bit that completes byte `k` (R153, R154). -/
theorem shiftBit_storeByte_boundary (bit : Bool) (r : Registers) {k : Fin 4}
    (h : r.bitCount.toNat + 1 = 8 * (k.val + 1)) :
    (r.shiftBit bit).storeByte =
      { r with
        rxBuf := r.rxBuf.store k (shiftIn bit r.byteAcc)
        byteAcc := 0x00#8
        bitCount := r.bitCount + 1#6 } := by
  rw [Registers.storeByte_of_slot _ (by simpa using byteSlot_succ h)]
  rfl

/-- An accepted bit that completes no byte (R153, R154). -/
theorem shiftBit_storeByte_between (bit : Bool) (r : Registers)
    (h : (r.bitCount.toNat + 1) % 8 ≠ 0) :
    (r.shiftBit bit).storeByte = r.shiftBit bit := by
  refine Registers.storeByte_of_no_slot _ (byteSlot_none ?_)
  simp only [Registers.shiftBit_bitCount, BitVec.toNat_add, BitVec.toNat_ofNat]
  omega

/-- The baseline test in the form claims use it (R123). -/
theorem baselinePending_iff (s : State) : baselinePending s.config s.regs = true ↔ s.awaitsBaseline := by
  unfold baselinePending State.awaitsBaseline
  split <;> simp_all

theorem exec_width_armed {s : State} (w : Ticks) (h : s.regs.armed = true) :
    exec (.width w) s = .next (s.finish (decodePulse s.config w s.regs)) := by
  rw [exec_eq_finish]
  simp [instrEffect, serializeWidth_decoded w h]

theorem exec_edge_armed {s : State} (c : Ticks) (h : s.regs.armed = true) (hb : ¬ s.awaitsBaseline) :
    exec (.edge c) s =
      .next (s.finish (decodePulse s.config (captureWidth c s.regs.lastCapture) (s.regs.latch c))) := by
  have hb' : baselinePending s.config s.regs = false := by
    rw [← Bool.not_eq_true, baselinePending_iff]
    exact hb
  rw [exec_eq_finish]
  simp [instrEffect, serializeEdge_decoded c h hb']

/-- The registers DECODE starts from: an EDGE has latched its capture (R120), a WIDTH has written nothing (R126). -/
def Registers.received (i : Instr) (r : Registers) : Registers :=
  match i with
  | .nop => r
  | .reset => r
  | .start => r
  | .stop => r
  | .edge c => r.latch c
  | .width _ => r

@[simp] theorem Registers.received_status (i : Instr) (r : Registers) : (r.received i).status = r.status := by
  cases i <;> rfl
@[simp] theorem Registers.received_rxBuf (i : Instr) (r : Registers) : (r.received i).rxBuf = r.rxBuf := by
  cases i <;> rfl
@[simp] theorem Registers.received_repeatCount (i : Instr) (r : Registers) :
    (r.received i).repeatCount = r.repeatCount := by cases i <;> rfl
@[simp] theorem Registers.received_lowWidth (i : Instr) (r : Registers) :
    (r.received i).lowWidth = r.lowWidth := by cases i <;> rfl
@[simp] theorem Registers.received_byteAcc (i : Instr) (r : Registers) :
    (r.received i).byteAcc = r.byteAcc := by cases i <;> rfl
@[simp] theorem Registers.received_bitCount (i : Instr) (r : Registers) :
    (r.received i).bitCount = r.bitCount := by cases i <;> rfl
@[simp] theorem Registers.received_lastValidCmd (i : Instr) (r : Registers) :
    (r.received i).lastValidCmd = r.lastValidCmd := by cases i <;> rfl

/-- Everything an event can do: DECODE of the width it delivers; nothing but the latch, for a data event that delivers none; or a control event's effect. -/
theorem instrEffect_cases (s : State) (i : Instr) :
    (∃ w, s.delivers i w ∧ instrEffect s.config i s.regs = decodePulse s.config w (s.regs.received i)) ∨
    instrEffect s.config i s.regs = ⟨s.regs, none⟩ ∨
    instrEffect s.config i s.regs = ⟨s.regs.received i, none⟩ ∨
    (i = .reset ∧ instrEffect s.config i s.regs = ⟨Registers.reset, none⟩) ∨
    (i = .start ∧ instrEffect s.config i s.regs =
      ⟨(if s.config.startClearsRepeat then s.regs.clearFrame.clearRepeat else s.regs.clearFrame).arm, none⟩) ∨
    (i = .stop ∧ instrEffect s.config i s.regs = ⟨s.regs.disarm, none⟩) := by
  cases i with
  | nop => exact .inr (.inl rfl)
  | reset => exact .inr (.inr (.inr (.inl ⟨rfl, rfl⟩)))
  | start => exact .inr (.inr (.inr (.inr (.inl ⟨rfl, rfl⟩))))
  | stop => exact .inr (.inr (.inr (.inr (.inr ⟨rfl, rfl⟩))))
  | edge c =>
    cases ha : s.regs.armed with
    | false => exact .inr (.inl (serializeEdge_disarmed c ha))
    | true =>
      by_cases hb : s.awaitsBaseline
      · exact .inr (.inr (.inl (serializeEdge_baseline c ha ((baselinePending_iff s).mpr hb))))
      · have hb' : baselinePending s.config s.regs = false := by
          rw [← Bool.not_eq_true, baselinePending_iff]
          exact hb
        exact .inl ⟨_, ⟨ha, hb, captureWidth_toNat c s.regs.lastCapture⟩, serializeEdge_decoded c ha hb'⟩
  | width v =>
    cases ha : s.regs.armed with
    | false => exact .inr (.inl (serializeWidth_disarmed v ha))
    | true => exact .inl ⟨v, ⟨ha, rfl⟩, serializeWidth_decoded v ha⟩

/-- A bit that DECODE takes is the one the claims name (R150, R151). -/
theorem takesBit_of_pairBit {c : Config} {bit : Bool} {total : Nat} (h : pairBit c total = some bit) :
    c.takesBit bit total := by
  unfold pairBit at h
  split at h <;> rename_i h0
  · cases h
    exact (inWindow_iff _ _).mp h0
  · split at h <;> rename_i h1
    · cases h
      exact ⟨fun h => h0 ((inWindow_iff _ _).mpr h), (inWindow_iff _ _).mp h1⟩
    · cases h

/-- The count before bit 32 (R28). -/
theorem bitCount_of_succ_eq_32 {n : BitVec 6} (h : n + 1#6 = 32#6) : n = 31#6 := by
  revert n
  decide

/-- What DECODE of a delivered width does to the key, the repeat counter and `lastValidCmd`: nothing, the end of a valid frame (R156), or a repeat marker (R181). -/
theorem decodePulse_key_cases (s : State) (i : Instr) (w : Ticks) :
    let e := decodePulse s.config w (s.regs.received i)
    (e.key = none ∧ e.regs.repeatCount = s.regs.repeatCount ∧
      e.regs.lastValidCmd = s.regs.lastValidCmd) ∨
    (s.completesFrame w ∧ e.regs.bitCount = 32#6 ∧
      e.regs.rxBuf.command.toNat + e.regs.rxBuf.commandInverted.toNat = 255 ∧
      e.regs.repeatCount = 0#8 ∧ e.key = some (e.regs.rxBuf.command + s.config.keyBase) ∧
      e.regs.lastValidCmd =
        if s.config.repeatSource = .lastvalid then e.regs.rxBuf.command else s.regs.lastValidCmd) ∨
    (s.takesMarker w ∧ e.regs.lastValidCmd = s.regs.lastValidCmd ∧
      ((s.regs.repeatCount.toNat < s.config.repeatFilter ∧
          e.regs.repeatCount = s.regs.repeatCount + 1#8 ∧ e.key = none) ∨
       (s.config.repeatFilter ≤ s.regs.repeatCount.toNat ∧ e.regs.repeatCount = s.regs.repeatCount ∧
          e.key =
            if s.config.repeatEmitEn then
              some ((if s.config.repeatSource = .rxbuf then s.regs.rxBuf.command else s.regs.lastValidCmd)
                + s.config.keyBase)
            else none))) := by
  dsimp only
  obtain ⟨_, e⟩ | ⟨_, _, e⟩ | ⟨hs, h1, h2, e⟩ | ⟨_, _, _, e⟩ | ⟨_, _, e⟩ | ⟨_, _, e⟩ | ⟨_, _, e⟩ |
      ⟨hs, bit, hb, e⟩ := decodePulse_cases s.config w (s.regs.received i) <;> rw [e]
  · left
    dsimp only
    split <;> simp
  · left
    simp
  · right; right
    refine ⟨⟨by simpa using hs, fun h => ?_, (inWindow_iff _ _).mp h2⟩, ?_⟩
    · rw [inWindow_of_holds h] at h1
      cases h1
    · by_cases hm : s.config.repeatFilter ≤ s.regs.repeatCount.toNat
      · rw [repeatMarker_met (by simpa using hm)]
        refine ⟨by simp, .inr ⟨hm, by simp, ?_⟩⟩
        cases hr : s.config.repeatSource <;> simp [keyCode, repeatCmd, hr]
      · rw [repeatMarker_below (by simpa using hm)]
        exact ⟨by simp, .inl ⟨by omega, by simp, rfl⟩⟩
  · left
    simp
  · left
    simp
  · left
    simp [redoEffect]
  · left
    simp [redoEffect]
  · obtain ⟨_, e⟩ | ⟨_, _, e⟩ | ⟨h1, h2, e⟩ := acceptBit_cases s.config bit (s.regs.received i) <;> rw [e]
    · left
      simp
    · left
      simp
    · right; left
      have hn := bitCount_of_succ_eq_32 h1
      refine ⟨⟨by simpa using hs, by simpa using hn, bit, ?_⟩, by simpa using h1,
        by simpa using (checksumOk_iff _).mp h2, by simp, by simp [keyCode], ?_⟩
      · simpa [pairTotal_eq_total] using takesBit_of_pairBit hb
      · cases hr : s.config.repeatSource <;> simp [hr]

/-- A step on the first of a list of events presented, where its word decodes to it. -/
theorem step_presentAll {s : State} {i : Instr} {is : List Instr} (hc : s.config.wellFormed = true)
    (hd : decode (encode i) = .event i) :
    step (s.presentAll (i :: is)) = .next ((s.finish (instrEffect s.config i s.regs)).presentAll is) := by
  rw [step_of_event (s := s.presentAll (i :: is)) hc rfl hd]
  rfl

end Sys2Proof.Machine
end

