-- ==== Sys2Proof/Laws/Host.lean ====
section
/-! SUPPORT. What the host's contract (R211) says of the stream of events alone. -/

namespace Sys2Proof.Machine

theorem measures_isData {origin : Ticks} {previous : Option Nat} {t : Nat} {i : Instr}
    (h : measures origin previous t i) : isData i = true := by
  cases i <;> first | rfl | exact h.elim

theorem armedAfter_of_isData {i : Instr} (armed : Bool) (h : isData i = true) : armedAfter armed i = armed := by
  cases i <;> first | rfl | cases h

theorem captured_cons {origin : Ticks} {e : TimedEvent} {es : List TimedEvent}
    (h : ∀ c, e.event = .edge c → c = timerCount origin e.time) (hs : captured origin es) :
    captured origin (e :: es) :=
  List.forall_mem_cons.mpr ⟨h, hs⟩

/-- R211(c) for captures: every EDGE presented carries the timer's count. -/
theorem presents_captured {origin : Ticks} {hs : List Happening} :
    ∀ {previous : Option Nat} {armed : Bool} {es : List TimedEvent},
      presents origin previous armed hs es → captured origin es := by
  induction hs with
  | nil =>
    rintro _ _ _ rfl e he
    cases he
  | cons h hs ih =>
    intro previous armed es hp
    cases h with
    | control e =>
      obtain ⟨hd, rest, rfl, hr⟩ := hp
      exact captured_cons (fun c hc => by rw [hc] at hd; cases hd) (ih hr)
    | edge t =>
      cases armed with
      | false => exact ih (previous := some t) (armed := false) hp
      | true =>
        obtain ⟨i, rest, rfl, hm, hr⟩ := hp
        refine captured_cons (fun c hc => ?_) (ih hr)
        obtain rfl : i = .edge c := hc
        exact hm

theorem quietWhileStopped_cons {armed : Bool} {i : Instr} {is : List Instr}
    (h : isData i = true → armed = true) (hs : quietWhileStopped (armedAfter armed i) is) :
    quietWhileStopped armed (i :: is) := ⟨h, hs⟩

/-- R211(d): no EDGE and no WIDTH is presented to a stopped block. -/
theorem presents_quiet {origin : Ticks} {hs : List Happening} :
    ∀ {previous : Option Nat} {armed : Bool} {es : List TimedEvent},
      presents origin previous armed hs es → quietWhileStopped armed (es.map TimedEvent.event) := by
  induction hs with
  | nil =>
    rintro _ _ _ rfl
    exact trivial
  | cons h hs ih =>
    intro previous armed es hp
    cases h with
    | control e =>
      obtain ⟨hd, rest, rfl, hr⟩ := hp
      exact quietWhileStopped_cons (fun h => by rw [hd] at h; cases h) (ih hr)
    | edge t =>
      cases armed with
      | false => exact ih (previous := some t) (armed := false) hp
      | true =>
        obtain ⟨i, rest, rfl, hm, hr⟩ := hp
        refine quietWhileStopped_cons (fun _ => rfl) ?_
        rw [armedAfter_of_isData true (measures_isData hm)]
        exact ih hr

theorem HostContract.captured {origin : Ticks} {previous : Option Nat} {armed : Bool} {hs : List Happening}
    {es : List TimedEvent} (h : HostContract origin previous armed hs es) :
    Sys2Proof.Machine.captured origin es := presents_captured h.2.1

theorem HostContract.quietWhileStopped {origin : Ticks} {previous : Option Nat} {armed : Bool}
    {hs : List Happening} {es : List TimedEvent} (h : HostContract origin previous armed hs es) :
    Sys2Proof.Machine.quietWhileStopped armed (es.map TimedEvent.event) := presents_quiet h.2.1

end Sys2Proof.Machine
end

