-- ==== Sys2Proof/Laws/PerInstr.lean ====
section
/-! SUPPORT. Statements about each event as syntax, one lemma per constructor. -/

namespace Sys2Proof.Laws

namespace OpField

/-- The encoded word carries the op value of R71 and the operand of R72, and the event is well formed. -/
def Statement (i : Instr) : Prop :=
  opField (encode i) = opValue i ∧ valField (encode i) = valValue i ∧ i.wellFormed = true

theorem nop : Statement .nop := ⟨opField_append _ _, valField_append _ _, rfl⟩

theorem reset : Statement .reset := ⟨opField_append _ _, valField_append _ _, rfl⟩

theorem start : Statement .start := ⟨opField_append _ _, valField_append _ _, rfl⟩

theorem stop : Statement .stop := ⟨opField_append _ _, valField_append _ _, rfl⟩

theorem edge (c : Ticks) : Statement (.edge c) :=
  ⟨opField_append _ _, valField_append _ _, decide_eq_true (Nat.le_of_lt_succ c.isLt)⟩

theorem width (w : Ticks) : Statement (.width w) :=
  ⟨opField_append _ _, valField_append _ _, decide_eq_true (Nat.le_of_lt_succ w.isLt)⟩

end OpField

end Sys2Proof.Laws
end

