-- ==== Sys2Proof/Tests/Slice0.lean ====
section
/-! SUPPORT. Tests and witnesses. Expected results are written out from 30_encoding.md and from the vectors of 95_test_vectors.md, named in each comment. A `witness_…` theorem shows a concrete state and operands that meet the hypotheses of the obligation it names, at the edges of their ranges. -/

namespace Sys2Proof.Tests

open Sys2Proof Sys2Proof.Machine

/-- R8's defaults with `KEY_BASE = 0x00` (95_test_vectors.md, opening). -/
def cfg : Config := Config.defaults 0x00#8

/-- A machine under a configuration, with the given events still to arrive. -/
def machine (c : Config) (r : Registers) (evs : List EventWord) : State :=
  { config := c, regs := r, events := evs, keyOut := none, keys := [] }

/-- An armed block past its baseline edge. -/
def running (st : Status) : Registers :=
  { Registers.reset with status := st, armed := true, baselineValid := true, lastCapture := 1000#16 }

/-- The state of V-BP*: a pair half received. -/
def pair (low : Ticks) (bits : BitVec 6) (acc : Byte) : Registers :=
  { running .awaitBitPair with lowWidth := low, bitCount := bits, byteAcc := acc }

/-- An armed machine after the 31st bit of a frame whose command is 0x0A and whose last byte lacks its top bit. -/
def lastBit (acc : Byte) : Registers :=
  { pair 56#16 31#6 acc with
    rxBuf := ⟨0x00#8, 0xFF#8, 0x0A#8, 0x33#8⟩, repeatCount := 5#8 }

def nextOf (o : Host.Outcome State Fault Refusal) : Option State :=
  match o with
  | .next t => some t
  | .fault _ => none
  | .refused _ => none

/-- The registers after an event, and the key it emits. -/
def effectOf (i : Instr) (c : Config) (r : Registers) : Option (Registers × Option Byte) :=
  (nextOf (exec i (machine c r []))).map fun t => (t.regs, t.keyOut)

def isIllFormed (o : Host.Outcome State Fault Refusal) : Bool :=
  match o with
  | .refused .illFormedConfiguration => true
  | .refused _ => false
  | .next _ => false
  | .fault _ => false

-- Well-formedness (R8): the check and the step refuse an ill-formed configuration for each of its conditions.

def refusesConfig (c : Config) : Bool :=
  !c.wellFormed && isIllFormed (step (machine c Registers.reset [0x00000#20]))

theorem test_defaults_are_well_formed : ∀ k, (Config.defaults k).wellFormed = true := by intro k; rfl
theorem test_refuses_leaderLow : refusesConfig { cfg with leaderLow := ⟨1101, 1100⟩ } = true := by decide
theorem test_refuses_leaderHigh : refusesConfig { cfg with leaderHigh := ⟨601, 600⟩ } = true := by decide
theorem test_refuses_repeatHigh : refusesConfig { cfg with repeatHigh := ⟨251, 250⟩ } = true := by decide
theorem test_refuses_bitLow : refusesConfig { cfg with bitLow := ⟨101, 100⟩ } = true := by decide
theorem test_refuses_bit0 : refusesConfig { cfg with bit0 := ⟨133, 132⟩ } = true := by decide
theorem test_refuses_bit1 : refusesConfig { cfg with bit1 := ⟨246, 245⟩ } = true := by decide
theorem test_refuses_repeatFilter : refusesConfig { cfg with repeatFilter := 256 } = true := by decide
theorem test_takes_window_of_one_width_and_filter_255 :
    Config.wellFormed { cfg with leaderLow := ⟨1100, 1100⟩, repeatFilter := 255 } = true := by decide
/-- An event is well formed by its type; the ill-formed term is a line of text with an operand above 65535 (R75). -/
theorem test_refuses_operand : assembleLine "WIDTH 65536".toList = .error := by decide
theorem test_takes_operand : assembleLine "width 0xFFFF ; top".toList = .event (.width 65535#16) := by decide

-- Decoding (R71, R73, R75): one word per row, bit by bit, and the edges of the reserved words.

/-- `op` 0000, `val` 0. -/
theorem test_decode_nop : decode 0b00000000000000000000#20 = .event .nop := by decide
/-- `op` 0001, `val` 0. -/
theorem test_decode_reset : decode 0b00010000000000000000#20 = .event .reset := by decide
/-- `op` 0010, `val` 0. -/
theorem test_decode_start : decode 0b00100000000000000000#20 = .event .start := by decide
/-- `op` 0011, `val` 0. -/
theorem test_decode_stop : decode 0b00110000000000000000#20 = .event .stop := by decide
/-- `EDGE 930` is 0x403A2 (R75). -/
theorem test_decode_edge : decode 0b01000000001110100010#20 = .event (.edge 930#16) := by decide
/-- `WIDTH 465` is 0x501D1 (R75). -/
theorem test_decode_width : decode 0b01010000000111010001#20 = .event (.width 465#16) := by decide
/-- V-E2, V-E6, V-E11, V-E12. -/
theorem test_decode_reserved :
    decode 0x00001#20 = .reserved (.operand 0x0#4 0x0001#16) ∧
    decode 0x3FFFF#20 = .reserved (.operand 0x3#4 0xFFFF#16) ∧
    decode 0x60000#20 = .reserved (.op 0x6#4) ∧ decode 0xFFFFF#20 = .reserved (.op 0xF#4) := by decide
theorem test_encode_words :
    encode (.edge 930#16) = 0x403A2#20 ∧ encode (.width 465#16) = 0x501D1#20 ∧ encode .stop = 0x30000#20 := by
  decide
/-- No two rows of the opcode table share a word: they differ in a bit that both masks test. -/
theorem test_rows_are_disjoint :
    opcodeRows.Pairwise fun a b => a.pattern &&& b.mask &&& a.mask ≠ b.pattern &&& a.mask &&& b.mask := by decide
theorem test_decodeTableWord :
    decodeTableWord 24 0x0403A2 = some (.edge 930#16) ∧ decodeTableWord 20 0x30000 = some .stop ∧
    decodeTableWord 24 0x030001 = none := by decide
/-- R77's printing: `EDGE 930`, `.word 0x60000`. -/
theorem test_print :
    printWord 0x403A2#20 = "EDGE 930".toList ∧ printWord 0x60000#20 = ".word 0x60000".toList := by decide

-- One step (95_test_vectors.md sections 2.2 to 2.6)

/-- V-C1. -/
theorem test_nop : effectOf .nop cfg (pair 56#16 17#6 0x04#8) = some (pair 56#16 17#6 0x04#8, none) := by decide

/-- V-C2. -/
theorem test_reset :
    effectOf .reset cfg
      { pair 56#16 17#6 0x04#8 with repeatCount := 10#8, rxBuf := ⟨0x00#8, 0xFF#8, 0x0A#8, 0xF5#8⟩ } =
      some (⟨.awaitLeaderLow, 0#16, ⟨0#8, 0#8, 0#8, 0#8⟩, 0#8, 0#16, 0#8, 0#6, false, false, 0#8⟩, none) := by
  decide

def vC4 : Registers :=
  { running .awaitBitLow with
    lastCapture := 4321#16, repeatCount := 3#8, rxBuf := ⟨1#8, 2#8, 3#8, 4#8⟩, lastValidCmd := 7#8 }

/-- V-C4. -/
theorem test_start :
    effectOf .start cfg vC4 =
      some (⟨.awaitLeaderLow, 0#16, ⟨1#8, 2#8, 3#8, 4#8⟩, 3#8, 0#16, 0#8, 0#6, true, false, 7#8⟩, none) := by
  decide

/-- V-C5. -/
theorem test_start_clearing :
    effectOf .start { cfg with startClearsRepeat := true } vC4 =
      some (⟨.awaitLeaderLow, 0#16, ⟨0#8, 0#8, 0#8, 0#8⟩, 0#8, 0#16, 0#8, 0#6, true, false, 0#8⟩, none) := by
  decide

/-- V-C6. -/
theorem test_stop :
    effectOf .stop cfg (pair 56#16 20#6 0x04#8) =
      some ({ pair 56#16 20#6 0x04#8 with armed := false }, none) := by decide

/-- V-S6 (W6), and V-S9's third edge: width 11 stays, width 930 is a leader. -/
theorem test_edge :
    effectOf (.edge 5#16) cfg { running .awaitLeaderLow with lastCapture := 65530#16 } =
      some ({ running .awaitLeaderLow with lastCapture := 5#16 }, none) ∧
    effectOf (.edge 930#16) cfg { running .awaitLeaderLow with lastCapture := 0#16 } =
      some ({ running .awaitLeaderHigh with lastCapture := 930#16 }, none) := by decide

/-- V-S2 and V-S8's third edge: the flag's baseline and the sentinel's. -/
theorem test_edge_baseline :
    effectOf (.edge 930#16) cfg { running .awaitLeaderLow with lastCapture := 0#16, baselineValid := false } =
      some ({ running .awaitLeaderLow with lastCapture := 930#16 }, none) ∧
    effectOf (.edge 930#16) { cfg with baselineZeroSentinel := true }
        { running .awaitLeaderLow with lastCapture := 0#16 } =
      some ({ running .awaitLeaderLow with lastCapture := 930#16 }, none) := by decide

/-- V-BP9, V-BP12, and BP19's operands with `TOTAL_WRAP16` (R149): bit 1, a reject taken as a leader, and a wrapped total of 92. -/
theorem test_width_pair :
    effectOf (.width 189#16) cfg (pair 56#16 5#6 0x04#8) =
      some ({ running .awaitBitLow with lowWidth := 56#16, bitCount := 6#6, byteAcc := 0x82#8 }, none) ∧
    effectOf (.width 930#16) cfg (pair 56#16 5#6 0x04#8) =
      some ({ pair 56#16 5#6 0x04#8 with status := .awaitLeaderHigh }, none) ∧
    effectOf (.width 65528#16) { cfg with totalWrap16 := true } (pair 100#16 5#6 0x04#8) =
      some ({ running .awaitBitLow with lowWidth := 100#16, bitCount := 6#6, byteAcc := 0x02#8 }, none) := by
  decide

/-- W7's last width under V-F9's `KEY_BASE`, and V-R3's marker: the frame key 0x02 and the repeat key 0x3A. -/
theorem test_width_keys :
    effectOf (.width 169#16) { cfg with keyBase := 0xF8#8 } (lastBit 0xEA#8) =
      some ({ running .awaitLeaderLow with
        lowWidth := 56#16, bitCount := 32#6, rxBuf := ⟨0x00#8, 0xFF#8, 0x0A#8, 0xF5#8⟩ }, some 0x02#8) ∧
    effectOf (.width 225#16) { cfg with keyBase := 0x30#8 }
        { running .awaitLeaderHigh with repeatCount := 10#8, rxBuf := ⟨0#8, 0xFF#8, 0x0A#8, 0xF5#8⟩ } =
      some ({ running .awaitLeaderLow with
        repeatCount := 10#8, rxBuf := ⟨0#8, 0xFF#8, 0x0A#8, 0xF5#8⟩ }, some 0x3A#8) := by decide

/-- The first step after reset drops a data event (R231), and runs exactly the word presented. -/
theorem test_withFetchWord :
    (nextOf (step (State.reset.withFetchWord 24 0x501D1))).map (fun t => (t.regs, t.events)) =
      some (Registers.reset, []) ∧
    (nextOf (step (State.reset.withFetchWord 24 0x20000))).map (fun t => (t.regs.armed, t.events)) =
      some (true, []) := by decide

-- Witnesses: encoding and text

theorem witness_DecodeOfEncodeIsTheEvent :
    (Instr.edge 65535#16).wellFormed = true ∧ Instr.nop.wellFormed = true := by decide

theorem witness_EveryEventHasOneWord : decode 0x4FFFF#20 = .event (.edge 65535#16) := by decide

theorem witness_DecoderAgreesWithOpcodeTable : ∀ row ∈ opcodeRows, row.covers row.pattern = true := by decide

/-- Reserved by its `op` (0x6, 0xF), by its operand (op 0x0, 0x3); the words beside them are not. -/
theorem witness_isReserved :
    isReserved 0x60000#20 ∧ isReserved 0xFFFFF#20 ∧ isReserved 0x00001#20 ∧ isReserved 0x3FFFF#20 ∧
    ¬ isReserved 0x5FFFF#20 ∧ ¬ isReserved 0x30000#20 := by decide

/-- A reserved word first on the port, and one behind a NOP. -/
theorem witness_ReservedWordsAreRefused :
    cfg.wellFormed = true ∧
    (machine cfg Registers.reset [0x60000#20]).events = 0x60000#20 :: [] ∧
    (∃ ev ∈ (machine cfg Registers.reset [0x00000#20, 0x00001#20]).events, isReserved ev) :=
  ⟨rfl, rfl, 0x00001#20, List.mem_cons_of_mem _ List.mem_cons_self, by decide⟩

theorem witness_PrintThenAssembleGivesTheWord :
    decode 0x50000#20 = .event (.width 0#16) ∧ decode 0x10000#20 = .event .reset := by decide

-- Witnesses: the step

theorem witness_StepRunsTheDecodedEvent :
    (machine cfg (running .awaitLeaderLow) [0x502BC#20]).config.wellFormed = true ∧
    (machine cfg (running .awaitLeaderLow) [0x502BC#20]).events = 0x502BC#20 :: [] ∧
    decode 0x502BC#20 = .event (.width 700#16) := by decide

theorem witness_EmptyStreamEndsTheRun :
    (machine cfg (running .awaitBitLow) []).config.wellFormed = true ∧
    (machine cfg (running .awaitBitLow) []).events = [] := by decide

theorem witness_StepTakesOneEventAndLogsItsKey :
    ∃ t, step (machine cfg (lastBit 0xEA#8) [0x500A9#20]) = .next t := ⟨_, rfl⟩

theorem witness_SafeStreamRunsToItsEnd :
    (machine cfg Registers.reset [0x20000#20, 0x403A2#20, 0x50000#20]).Safe := by decide

theorem witness_ResetAndNopOperands : (0x0001#16 : Ticks) ≠ 0#16 ∧ (0xFFFF#16 : Ticks) ≠ 0#16 := by decide

theorem witness_StopOnlyDisarms :
    ∃ t, exec .stop (machine cfg (pair 56#16 20#6 0x04#8) []) = .next t := ⟨_, rfl⟩

-- Witnesses: the serializer

theorem witness_DisarmedDataEventsAreDropped : State.reset.regs.armed = false := rfl

/-- Both detection modes. -/
theorem witness_BaselineEdgeIsAbsorbed :
    let flag := machine cfg { running .awaitBitPair with baselineValid := false } []
    let sentinel := machine { cfg with baselineZeroSentinel := true }
      { running .awaitLeaderLow with lastCapture := 0#16 } []
    (flag.regs.armed = true ∧ flag.awaitsBaseline) ∧
    (sentinel.regs.armed = true ∧ sentinel.awaitsBaseline) := by decide

/-- P6's wrap, and the sentinel mode off AwaitLeaderLow. -/
theorem witness_EdgeDecodesTheWrappedWidth :
    let wrapped := machine cfg { running .awaitLeaderLow with lastCapture := 65530#16 } []
    let sentinel := machine { cfg with baselineZeroSentinel := true }
      { running .awaitLeaderHigh with lastCapture := 0#16 } []
    (wrapped.regs.armed = true ∧ ¬ wrapped.awaitsBaseline ∧
      (11#16).toNat = (65536 + (5#16).toNat - wrapped.regs.lastCapture.toNat) % 65536) ∧
    (sentinel.regs.armed = true ∧ ¬ sentinel.awaitsBaseline ∧
      (65535#16).toNat = (65536 + (65535#16).toNat - sentinel.regs.lastCapture.toNat) % 65536) := by decide

/-- R127's gap of 66236 ticks, seen as 700. -/
theorem witness_EdgeGapIsSeenModulo65536 :
    let s := machine cfg (running .awaitLeaderLow) []
    s.regs.armed = true ∧ ¬ s.awaitsBaseline ∧ s.regs.lastCapture = timerCount 600#16 400 ∧
      (700#16).toNat = 66236 % 65536 := by decide

theorem witness_CapturesDecodeAsTheirWidths :
    let s := machine cfg { running .awaitLeaderLow with lastCapture := 65530#16 } []
    s.config.wellFormed = true ∧ s.config.baselineZeroSentinel = false ∧ s.regs.armed = true ∧
      s.regs.baselineValid = true := by decide

-- Witnesses: the frame decoder

/-- Both sides of the equivalence, in both bit states, at the windows' edges. -/
theorem witness_RedoHappensOnceUnderLeaderLow :
    dispatch cfg 9#16 (running .awaitBitLow) = .redo (running .awaitLeaderLow) ∧
    ¬ cfg.bitLow.holds 9 ∧ ¬ cfg.bitLow.holds 101 ∧
    dispatch cfg 77#16 (pair 56#16 5#6 0x04#8) =
      .redo { pair 56#16 5#6 0x04#8 with status := .awaitLeaderLow } ∧
    ¬ cfg.bit0.holds (cfg.total 56#16 77#16) ∧ ¬ cfg.bit1.holds (cfg.total 56#16 77#16) := by decide

theorem witness_LeaderLowTakesItsWindow :
    let s := machine cfg (running .awaitLeaderLow) []
    s.regs.armed = true ∧ s.regs.status = .awaitLeaderLow ∧ s.config.leaderLow.holds 700 ∧
      s.config.leaderLow.holds 1100 ∧ ¬ s.config.leaderLow.holds 699 ∧ ¬ s.config.leaderLow.holds 1101 := by
  decide

theorem witness_FrameLeaderStartsBits :
    let s := machine cfg (running .awaitLeaderHigh) []
    s.regs.armed = true ∧ s.regs.status = .awaitLeaderHigh ∧ s.config.leaderHigh.holds (310#16).toNat ∧
      s.config.leaderHigh.holds (600#16).toNat := by decide

/-- The marker window's edges, with the filter missed by one and met exactly, under either source and emission on or off. -/
theorem witness_RepeatMarkerCountsThenEmits :
    let below := machine cfg { running .awaitLeaderHigh with repeatCount := 9#8 } []
    let met := machine { cfg with repeatSource := .lastvalid, repeatEmitEn := false }
      { running .awaitLeaderHigh with repeatCount := 10#8 } []
    (below.regs.armed = true ∧ below.regs.status = .awaitLeaderHigh ∧
      ¬ below.config.leaderHigh.holds (150#16).toNat ∧ below.config.repeatHigh.holds (150#16).toNat ∧
      ¬ below.config.repeatFilter ≤ below.regs.repeatCount.toNat) ∧
    (met.regs.armed = true ∧ met.regs.status = .awaitLeaderHigh ∧
      ¬ met.config.leaderHigh.holds (250#16).toNat ∧ met.config.repeatHigh.holds (250#16).toNat ∧
      met.config.repeatFilter ≤ met.regs.repeatCount.toNat) :=
  ⟨⟨rfl, rfl, by decide, by decide, by decide⟩, rfl, rfl, by decide, by decide, by decide⟩

/-- A configuration whose two leader-high windows overlap, and widths in neither default window. -/
theorem witness_LeaderHighTestsFrameFirstAndAbandons :
    let both := machine { cfg with repeatHigh := ⟨150, 310⟩ } (running .awaitLeaderHigh) []
    let s := machine cfg (running .awaitLeaderHigh) []
    (both.config.wellFormed = true ∧ both.regs.armed = true ∧ both.regs.status = .awaitLeaderHigh ∧
      both.config.leaderHigh.holds 310 ∧ both.config.repeatHigh.holds 310) ∧
    (s.regs.armed = true ∧ s.regs.status = .awaitLeaderHigh ∧
      ∀ w ∈ [149, 251, 309, 601, 930], ¬ s.config.leaderHigh.holds w ∧ ¬ s.config.repeatHigh.holds w) := by
  decide

theorem witness_BitLowIsRemembered :
    let s := machine cfg (running .awaitBitLow) []
    s.regs.armed = true ∧ s.regs.status = .awaitBitLow ∧ s.config.bitLow.holds (10#16).toNat ∧
      s.config.bitLow.holds (100#16).toNat := by decide

/-- A rejected width in the leader-low window and one outside it. -/
theorem witness_RejectedBitLowIsReoffered :
    let s := machine cfg { running .awaitBitLow with bitCount := 5#6 } []
    s.regs.armed = true ∧ s.regs.status = .awaitBitLow ∧ ¬ s.config.bitLow.holds (9#16).toNat ∧
      ¬ s.config.bitLow.holds (101#16).toNat ∧ ¬ s.config.bitLow.holds (700#16).toNat ∧
      s.config.leaderLow.holds (700#16).toNat := by decide

/-- A configuration whose two bit windows overlap, for a bit within a byte and the last of a frame. -/
theorem witness_PairTestsBit0First :
    let c := { cfg with bit1 := ⟨132, 245⟩ }
    let mid := machine c (pair 56#16 5#6 0x04#8) []
    let last := machine c (pair 56#16 31#6 0x04#8) []
    (mid.config.wellFormed = true ∧ mid.regs.armed = true ∧ mid.regs.status = .awaitBitPair ∧
      mid.config.bit0.holds (mid.total 76#16) ∧ mid.config.bit1.holds (mid.total 76#16) ∧
      mid.regs.bitCount.toNat ≤ 31) ∧
    (last.config.wellFormed = true ∧ last.regs.armed = true ∧ last.regs.status = .awaitBitPair ∧
      last.config.bit0.holds (last.total 76#16) ∧ last.config.bit1.holds (last.total 76#16) ∧
      last.regs.bitCount.toNat ≤ 31) :=
  ⟨⟨rfl, rfl, rfl, by decide, by decide, by decide⟩, rfl, rfl, rfl, by decide, by decide, by decide⟩

/-- Totals 91, 133, 204 and 246, and a total wrapped to 91. -/
theorem witness_PairReoffers :
    let s := machine cfg (pair 56#16 5#6 0x04#8) []
    let wrap := machine { cfg with totalWrap16 := true } (pair 100#16 5#6 0x04#8) []
    (s.regs.armed = true ∧ s.regs.status = .awaitBitPair ∧
      (¬ s.config.bit0.holds (s.total 35#16) ∧ ¬ s.config.bit1.holds (s.total 35#16)) ∧
      (¬ s.config.bit0.holds (s.total 77#16) ∧ ¬ s.config.bit1.holds (s.total 77#16)) ∧
      (¬ s.config.bit0.holds (s.total 148#16) ∧ ¬ s.config.bit1.holds (s.total 148#16)) ∧
      (¬ s.config.bit0.holds (s.total 190#16) ∧ ¬ s.config.bit1.holds (s.total 190#16))) ∧
    (wrap.regs.armed = true ∧ wrap.regs.status = .awaitBitPair ∧
      ¬ wrap.config.bit0.holds (wrap.total 65527#16) ∧ ¬ wrap.config.bit1.holds (wrap.total 65527#16)) :=
  ⟨⟨rfl, rfl, by decide, by decide, by decide, by decide⟩, rfl, rfl, by decide, by decide⟩

/-- Both bits at their windows' edges (totals 92, 132, 205, 245); the first bit, and the last of a frame. -/
theorem witness_AcceptedBitIsAssembled :
    let first := machine cfg (pair 56#16 0#6 0x04#8) []
    let last := machine cfg (pair 56#16 31#6 0x04#8) []
    (first.regs.armed = true ∧ first.regs.status = .awaitBitPair ∧ first.regs.bitCount.toNat ≤ 31 ∧
      first.config.takesBit false (first.total 36#16) ∧ first.config.takesBit false (first.total 76#16) ∧
      (first.regs.bitCount.toNat + 1) % 8 ≠ 0) ∧
    (last.regs.armed = true ∧ last.regs.status = .awaitBitPair ∧ last.regs.bitCount.toNat ≤ 31 ∧
      last.config.takesBit true (last.total 149#16) ∧ last.config.takesBit true (last.total 189#16) ∧
      last.regs.bitCount.toNat + 1 = 8 * ((3 : Fin 4).val + 1)) :=
  ⟨⟨rfl, rfl, by decide, by decide, by decide, by decide⟩, rfl, rfl, by decide, by decide, by decide, by decide⟩

/-- Every slot. -/
theorem witness_ByteBoundaryStoresTheByte :
    ∀ k : Fin 4,
      let s := machine cfg (pair 56#16 (BitVec.ofNat 6 (8 * k.val + 7)) 0x04#8) []
      s.regs.armed = true ∧ s.regs.status = .awaitBitPair ∧ s.regs.bitCount.toNat + 1 = 8 * (k.val + 1) ∧
        s.config.takesBit true (s.total 169#16) := by decide

/-- A passing byte 0xF5 and a failing byte 0xF4 (W7, W8). -/
theorem witness_FrameEndsAtItsChecksum :
    let pass := machine cfg (lastBit 0xEA#8) []
    let fail := machine cfg (lastBit 0xE8#8) []
    (pass.regs.armed = true ∧ pass.regs.status = .awaitBitPair ∧ pass.regs.bitCount = 31#6 ∧
      pass.config.takesBit true (pass.total 169#16) ∧
      0xF5#8 = BitVec.ofNat 8 (pass.regs.byteAcc.toNat / 2 + 128) ∧
      (pass.regs.rxBuf.command.toNat + (0xF5#8).toNat) % 256 = 0xFF) ∧
    (fail.regs.armed = true ∧ fail.regs.status = .awaitBitPair ∧ fail.regs.bitCount = 31#6 ∧
      fail.config.takesBit true (fail.total 169#16) ∧
      0xF4#8 = BitVec.ofNat 8 (fail.regs.byteAcc.toNat / 2 + 128) ∧
      (fail.regs.rxBuf.command.toNat + (0xF4#8).toNat) % 256 ≠ 0xFF) :=
  ⟨⟨rfl, rfl, rfl, by decide, by decide, by decide⟩, rfl, rfl, rfl, by decide, by decide, by decide⟩

theorem witness_ByteArrivesLsbFirst :
    ∀ k : Fin 4,
      let s := machine cfg { running .awaitBitLow with bitCount := BitVec.ofNat 6 (8 * k.val) } []
      s.config.wellFormed = true ∧ s.config.defaultWindows ∧ s.regs.armed = true ∧
        s.regs.status = .awaitBitLow ∧ s.regs.bitCount.toNat = 8 * k.val := by decide

/-- A frame in progress, and an idle block. -/
theorem witness_FrameEmitsItsKeyIffChecksumPasses :
    ∀ r ∈ [pair 56#16 5#6 0xA0#8, running .awaitLeaderLow],
      (machine cfg r []).config.wellFormed = true ∧ (machine cfg r []).config.defaultWindows ∧
      (machine cfg r []).Inv ∧ (machine cfg r []).regs.armed = true ∧
      (machine cfg r []).regs.status ≠ .awaitLeaderHigh := by decide

theorem witness_FrameAfterStrayLeaderIsLost :
    let s := machine cfg (running .awaitLeaderHigh) []
    s.config.wellFormed = true ∧ s.config.defaultWindows ∧ s.regs.armed = true ∧
      s.regs.status = .awaitLeaderHigh := by decide

-- Witnesses: the repeat filter and the keys

theorem witness_RepeatKeysFollowTheFilter :
    ∀ src ∈ [RepeatSource.rxbuf, .lastvalid],
      let s := machine { cfg with repeatSource := src } (running .awaitLeaderLow) []
      s.config.wellFormed = true ∧ s.config.defaultWindows ∧ s.config.repeatEmitEn = true ∧ s.Inv ∧
        s.regs.armed = true ∧ s.regs.status ≠ .awaitLeaderHigh ∧ (0x0A#8).toNat + (0xF5#8).toNat = 255 := by
  decide

/-- What a delivered width is: an armed WIDTH, and an armed EDGE past the baseline, here over the timer's wrap (W6). -/
theorem witness_delivers :
    (machine cfg (running .awaitLeaderLow) []).delivers (.width 930#16) 930#16 ∧
    (machine cfg { running .awaitLeaderLow with lastCapture := 65530#16 } []).delivers (.edge 5#16) 11#16 :=
  ⟨⟨rfl, rfl⟩, rfl, by decide, by decide⟩

/-- Both causes: a frame key by a WIDTH, and a repeat key by an EDGE 225 ticks after the last. -/
theorem witness_EveryKeyHasItsCause :
    (∃ t, step (machine cfg (lastBit 0xEA#8) [0x500A9#20]) = .next t ∧ t.keyOut = some 0x0A#8) ∧
    (∃ t, step (machine cfg { running .awaitLeaderHigh with repeatCount := 10#8 } [0x404C9#20]) = .next t ∧
      t.keyOut = some 0x00#8) := ⟨⟨_, rfl, by decide⟩, ⟨_, rfl, by decide⟩⟩

/-- The counter's frame clause at total 245 and its marker clause at the window's edges, one below the filter. -/
theorem witness_RepeatCountChangesOnlyAsStated :
    let frame := machine cfg (lastBit 0xEA#8) []
    let marker := machine cfg { running .awaitLeaderHigh with repeatCount := 9#8 } []
    (frame.delivers (.width 189#16) 189#16 ∧ frame.completesFrame 189#16) ∧
    (marker.takesMarker 150#16 ∧ marker.takesMarker 250#16 ∧ ¬ marker.takesMarker 251#16 ∧
      marker.regs.repeatCount.toNat < marker.config.repeatFilter) :=
  ⟨⟨⟨rfl, rfl⟩, rfl, rfl, true, by decide⟩, by decide, by decide, by decide, by decide⟩

/-- A frame that changes `lastValidCmd`, and a RESET and a clearing START that clear it. -/
theorem witness_LastValidKeysPassedTheChecksum :
    let c := { cfg with repeatSource := .lastvalid, startClearsRepeat := true }
    c.repeatSource = .lastvalid ∧
    (∃ t, step (machine c (lastBit 0xEA#8) [0x500A9#20]) = .next t ∧ t.keyOut = some 0x0A#8 ∧
      t.regs.lastValidCmd ≠ (lastBit 0xEA#8).lastValidCmd) ∧
    (∃ t, step (machine c { running .awaitBitLow with lastValidCmd := 7#8 } [0x10000#20]) = .next t ∧
      t.regs.lastValidCmd ≠ 7#8) ∧
    (∃ t, step (machine c { running .awaitBitLow with lastValidCmd := 7#8 } [0x20000#20]) = .next t ∧
      t.regs.lastValidCmd ≠ 7#8) :=
  ⟨rfl, ⟨_, rfl, by decide, by decide⟩, ⟨_, rfl, by decide⟩, ⟨_, rfl, by decide⟩⟩

theorem witness_AddressBytesAreNeverTested :
    ∃ t, run 1 (machine cfg (lastBit 0xEA#8) [0x500A9#20]) = .next t := ⟨_, rfl⟩

-- The host's contract (R211)

/-- One event per edge, over the timer's wrap: an EDGE carries the count, a WIDTH the ticks since the edge before. -/
theorem test_presents :
    presents 0#16 (some 65530) true [.edge 65541, .edge 66471] [⟨65541, .edge 5#16⟩, ⟨66471, .width 930#16⟩] :=
  ⟨_, _, rfl, rfl, _, _, rfl, (fun _ h => by cases h; decide), rfl⟩

/-- A dropped edge, a second event for an edge, and a wrong width break the contract. -/
theorem test_presents_refuses :
    ¬ presents 0#16 none true [.edge 100] [] ∧
    ¬ presents 0#16 none true [.edge 100] [⟨100, .edge 100#16⟩, ⟨100, .width 0#16⟩] ∧
    ¬ presents 0#16 (some 0) true [.edge 100] [⟨100, .width 99#16⟩] := by
  refine ⟨?_, ?_, ?_⟩
  · rintro ⟨_, _, h, _⟩
    cases h
  · rintro ⟨_, _, h, _, hr⟩
    cases h
    cases hr
  · rintro ⟨_, _, h, hm, _⟩
    cases h
    exact absurd (hm 0 rfl) (by decide)

/-- The contract can be kept: an edge while stopped is not presented, START is, and the edge after it is. -/
theorem witness_HostContract :
    HostContract 0#16 none false
      [.edge 0, .control ⟨0, .start⟩, .edge Config.minEventInterval]
      [⟨0, .start⟩, ⟨Config.minEventInterval, .edge (timerCount 0#16 Config.minEventInterval)⟩] :=
  ⟨by simp [Happening.time], ⟨rfl, _, rfl, _, _, rfl, rfl, rfl⟩, by simp [spaced]⟩

-- Witnesses: the whole machine

/-- An invariant state within a byte, with bits received and a count at its bound, that takes a step. -/
theorem witness_StepKeepsTheInvariants :
    let s := machine cfg { pair 100#16 31#6 0xFE#8 with repeatCount := 10#8 } [0x50000#20]
    s.Inv ∧ ∃ t, step s = .next t := ⟨by decide, _, rfl⟩

theorem witness_StoppedBlockStaysQuiet :
    let s := machine cfg { running .awaitBitPair with armed := false } []
    let is := [Instr.width 169#16, .edge 930#16]
    s.config.wellFormed = true ∧ s.regs.armed = false ∧ s.keyOut = none ∧ ∀ i ∈ is, isData i = true := by
  decide

end Sys2Proof.Tests
end

section
/-! PROOFS. Reserved event words (R73): what the decoder, a step and a run do with one. -/

namespace Sys2Proof

/-- An event without an operand is reserved exactly by a non-zero operand (R73(b)). -/
theorem decodePlain_reserved_iff (i : Instr) (op : BitVec 4) (val : Ticks) :
    (∃ why, decodePlain i op val = .reserved why) ↔ val ≠ 0#16 := by
  by_cases hv : val = 0#16
  · simp [hv, decodePlain_zero]
  · simp [hv, decodePlain_ne_zero]

/-- The decoder's case analysis answers reserved exactly in the two cases of R73. -/
theorem decodeFields_reserved_iff (op : BitVec 4) (val : Ticks) :
    (∃ why, decodeFields op val = .reserved why) ↔
      6 ≤ op.toNat ∨ (op.toNat ≤ 3 ∧ val ≠ 0#16) := by
  unfold decodeFields
  split
  case h_1 hop | h_2 hop | h_3 hop | h_4 hop => simp [decodePlain_reserved_iff, hop]
  case h_5 hop | h_6 hop => simp [hop]
  case h_7 h0 h1 h2 h3 h4 h5 =>
    simp only [imp_false] at h0 h1 h2 h3 h4 h5
    have hop : 6 ≤ op.toNat := by omega
    simp [hop]

/-- The decoder answers reserved exactly on the words reserved by their fields (R73, R74). -/
theorem decode_reserved_iff (ev : EventWord) :
    (∃ why, decode ev = .reserved why) ↔ isReserved ev :=
  decodeFields_reserved_iff (opField ev) (valField ev)

end Sys2Proof

namespace Sys2Proof.Machine

/-- A reserved word first on the port gets no step, and its case is the reason (R73). -/
theorem step_of_reserved {s : State} {ev : EventWord} {rest : List EventWord} {why : Reserved}
    (hc : s.config.wellFormed = true) (hev : s.events = ev :: rest)
    (hd : decode ev = .reserved why) : step s = .refused (.reservedEvent why) := by
  simp [step, hc, fetch, hev, hd]

/-- With a word on the port, a step refuses a reserved event exactly when the decoder calls that word reserved. -/
theorem step_refuses_reserved_iff {s : State} {ev : EventWord} {rest : List EventWord}
    (hc : s.config.wellFormed = true) (hev : s.events = ev :: rest) :
    (∃ why, step s = .refused (.reservedEvent why)) ↔ ∃ why, decode ev = .reserved why := by
  cases hd : decode ev with
  | event i => simp [step_of_event hc hev hd]
  | reserved why => simp [step_of_reserved hc hev hd]

/-- A run meets the first reserved word of its stream within the stream's length, and stops there (R73, R251). -/
theorem run_refused_of_mem_reserved {s : State} (hc : s.config.wellFormed = true)
    (hres : ∃ ev ∈ s.events, isReserved ev) :
    ∃ why, ∀ n, s.events.length ≤ n → run n s = .refused (.reservedEvent why) := by
  induction hev : s.events generalizing s with
  | nil => simp [hev] at hres
  | cons ev rest ih =>
    cases hd : decode ev with
    | reserved why =>
      refine ⟨why, fun n hn => ?_⟩
      obtain ⟨m, rfl⟩ := Nat.exists_eq_add_of_le' (Nat.le_of_add_left_le hn)
      exact run_of_refused m (step_of_reserved hc hev hd)
    | event i =>
      have hlegal : ¬ isReserved ev := by simp [← decode_reserved_iff, hd]
      have hrest : ∃ ev ∈ rest, isReserved ev := by
        simpa only [hev, List.exists_mem_cons_iff, hlegal, false_or] using hres
      obtain ⟨why, hwhy⟩ :=
        ih (s := State.finish { s with events := rest } (instrEffect s.config i s.regs)) hc hrest rfl
      refine ⟨why, fun n hn => ?_⟩
      obtain ⟨m, rfl⟩ := Nat.exists_eq_add_of_le' (Nat.le_of_add_left_le hn)
      rw [run_of_next m (step_of_event hc hev hd)]
      exact hwhy m (Nat.le_of_succ_le_succ hn)

/-- Settles O5: a step refuses exactly what the decoder calls reserved, and the run is by induction on the stream. -/
theorem reservedWordsAreRefused : Obligations.ReservedWordsAreRefused := by
  intro s hc
  refine ⟨fun ev rest hev => ?_, run_refused_of_mem_reserved hc⟩
  rw [step_refuses_reserved_iff hc hev, decode_reserved_iff]

end Sys2Proof.Machine
end

section
/-! PROOFS. The control events (R100, R102, R103): the next state of an event that drives no key. -/

namespace Sys2Proof.Machine

/-- An event that drives no key appends nothing to the log of keys. -/
theorem State.finish_no_key (s : State) (r : Registers) :
    s.finish ⟨r, none⟩ = { s with regs := r, keyOut := none } := by
  simp [State.finish]

/-- The next state of an event whose effect drives no key. -/
theorem exec_of_no_key {i : Instr} {s : State} {r : Registers}
    (h : instrEffect s.config i s.regs = ⟨r, none⟩) :
    exec i s = .next { s with regs := r, keyOut := none } := by
  rw [exec_eq_finish, h, State.finish_no_key]

/-- EDGE and WIDTH are dropped while disarmed (R125). -/
theorem exec_data_disarmed {i : Instr} {s : State} (hi : isData i = true)
    (harmed : s.regs.armed = false) : exec i s = .next { s with keyOut := none } := by
  cases i with
  | edge c => exact exec_of_no_key (serializeEdge_disarmed c harmed)
  | width w => exact exec_of_no_key (serializeWidth_disarmed w harmed)
  | nop | reset | start | stop => cases hi

/-- STOP's next state (R103). -/
theorem exec_stop (s : State) :
    exec .stop s = .next { s with regs := { s.regs with armed := false }, keyOut := none } :=
  exec_of_no_key rfl

/-- Settles O14: the operand's decoding is that of an event without an operand (R73(b)), and NOP's effect is the registers as they stand. -/
theorem nopChangesNothing : Obligations.NopChangesNothing := by
  refine ⟨rfl, fun v hv => ?_, fun s => exec_of_no_key rfl⟩
  rw [decode_append]
  exact decodePlain_ne_zero .nop 0x0#4 hv

/-- Settles O15, by the two settings of `START_CLEARS_REPEAT`. -/
theorem startInitialisesAndArms : Obligations.StartInitialisesAndArms := by
  refine ⟨rfl, fun s => exec_of_no_key ?_⟩
  cases hclear : s.config.startClearsRepeat with
  | false => simp [instrEffect, hclear, Registers.clearFrame, Registers.arm]
  | true =>
    simp [instrEffect, hclear, Registers.clearFrame, Registers.clearRepeat, RxBuf.reset, Registers.arm]

/-- Settles O16: the state STOP leaves is disarmed with no key driven, so a data event gives it back; the next START is O15. -/
theorem stopOnlyDisarms : Obligations.StopOnlyDisarms := by
  refine ⟨rfl, fun s => ⟨exec_stop s, fun t ht v => ?_⟩⟩
  obtain rfl : { s with regs := { s.regs with armed := false }, keyOut := none } = t :=
    Host.Outcome.next.inj ((exec_stop s).symm.trans ht)
  obtain ⟨-, hstart⟩ := startInitialisesAndArms
  exact ⟨exec_data_disarmed rfl rfl, exec_data_disarmed rfl rfl, _, hstart _, rfl, rfl, rfl, rfl⟩

end Sys2Proof.Machine
end

section
/-! PROOFS. The edge serializer (R120 to R126): the width an EDGE decodes, and the registers only the serializer writes. -/

namespace Sys2Proof.Machine

/-- A width with the value of R121's wraparound subtraction is the width the serializer computes. -/
theorem eq_captureWidth {c last w : Ticks}
    (hw : w.toNat = (65536 + c.toNat - last.toNat) % 65536) : w = captureWidth c last :=
  BitVec.eq_of_toNat_eq (hw.trans (captureWidth_toNat c last).symm)

/-- The baseline edge on the whole machine (R124): the latch and nothing else. -/
theorem exec_edge_baseline {s : State} (c : Ticks) (harmed : s.regs.armed = true)
    (hb : s.awaitsBaseline) :
    exec (.edge c) s = .next { s with regs := s.regs.latch c, keyOut := none } :=
  exec_of_no_key (serializeEdge_baseline c harmed ((baselinePending_iff s).mpr hb))

/-- What EDGE leaves in the serializer's own registers (R122, R125), by the three cases of R120. -/
theorem serializeEdge_frame (cfg : Config) (c : Ticks) (r : Registers) :
    (serializeEdge cfg c r).regs.lastCapture = (if r.armed then c else r.lastCapture) ∧
    (serializeEdge cfg c r).regs.baselineValid = (r.armed || r.baselineValid) := by
  cases harmed : r.armed with
  | false => simp [serializeEdge_disarmed c harmed]
  | true =>
    cases hb : baselinePending cfg r with
    | true => simp [serializeEdge_baseline c harmed hb]
    | false =>
      obtain ⟨hlast, -, hvalid⟩ := decodePulse_frame cfg (captureWidth c r.lastCapture) (r.latch c)
      simp [serializeEdge_decoded c harmed hb, hlast, hvalid]

/-- WIDTH writes neither of the serializer's own registers (R126). -/
theorem serializeWidth_frame (cfg : Config) (w : Ticks) (r : Registers) :
    (serializeWidth cfg w r).regs.lastCapture = r.lastCapture ∧
    (serializeWidth cfg w r).regs.baselineValid = r.baselineValid := by
  cases harmed : r.armed with
  | false => simp [serializeWidth_disarmed w harmed]
  | true =>
    obtain ⟨hlast, -, hvalid⟩ := decodePulse_frame cfg w r
    simp [serializeWidth_decoded w harmed, hlast, hvalid]

/-- Settles O17: neither data event has an effect on a disarmed block. -/
theorem disarmedDataEventsAreDropped : Obligations.DisarmedDataEventsAreDropped :=
  fun _ _ harmed => ⟨exec_data_disarmed rfl harmed, exec_data_disarmed rfl harmed⟩

/-- Settles O18: the serializer's baseline case, with the test of either detection mode. -/
theorem baselineEdgeIsAbsorbed : Obligations.BaselineEdgeIsAbsorbed :=
  fun _ c harmed hb => exec_edge_baseline c harmed hb

/-- Settles O19: both events hand DECODE the same width on the same latched registers. -/
theorem edgeDecodesTheWrappedWidth : Obligations.EdgeDecodesTheWrappedWidth := by
  intro s c w harmed hb hw
  obtain rfl : w = captureWidth c s.regs.lastCapture := eq_captureWidth hw
  exact ⟨_, exec_edge_armed c harmed hb, exec_width_armed _ harmed⟩

/-- Settles O20: the next state holds the registers of the event's effect. -/
theorem armedEdgeLatchesItsCapture : Obligations.ArmedEdgeLatchesItsCapture :=
  fun s c =>
    ⟨⟨_, exec_eq_finish (.edge c) s, serializeEdge_frame s.config c s.regs⟩,
      ⟨_, exec_eq_finish (.width c) s, serializeWidth_frame s.config c s.regs⟩⟩

end Sys2Proof.Machine
end

section
/-! PROOFS. The frame decoder up to a bit's high pulse (R142 to R148, R181): an armed WIDTH in AwaitLeaderLow, AwaitLeaderHigh and AwaitBitLow. -/

namespace Sys2Proof.Machine

/-- The next state of an armed WIDTH whose DECODE emits no key. -/
theorem exec_width_of_no_key {s : State} {w : Ticks} {r : Registers} (harmed : s.regs.armed = true)
    (h : decodePulse s.config w s.regs = ⟨r, none⟩) :
    exec (.width w) s = .next { s with regs := r, keyOut := none } :=
  exec_of_no_key ((serializeWidth_decoded w harmed).trans h)

/-- An armed WIDTH whose DECODE only offers it to AwaitLeaderLow writes `status` alone (R142, R143). -/
theorem exec_width_of_redo {s : State} {w : Ticks} (harmed : s.regs.armed = true)
    (h : decodePulse s.config w s.regs = redoEffect s.config w s.regs) :
    exec (.width w) s = .next { s with
      regs := { s.regs with
        status := if s.config.leaderLow.holds w.toNat then .awaitLeaderHigh else .awaitLeaderLow }
      keyOut := none } := by
  rw [exec_width_of_no_key harmed h]
  simp only [inWindow_iff, Registers.goto, Window.holds]

/-- Moving to the status already held writes nothing. -/
theorem Registers.goto_self {r : Registers} {st : Status} (h : r.status = st) : r.goto st = r := by
  subst h
  rfl

/-- In AwaitLeaderLow a width fares as one offered there again (R142, R143). -/
theorem decodePulse_leaderLow_eq_redo (c : Config) (w : Ticks) {r : Registers}
    (h : r.status = .awaitLeaderLow) : decodePulse c w r = redoEffect c w r := by
  rw [decodePulse_leaderLow c w h, redoEffect]
  split
  · rfl
  · rw [Registers.goto_self h]

/-- A frame leader's high pulse (R144). -/
theorem decodePulse_frameLeader {c : Config} {w : Ticks} {r : Registers}
    (h : r.status = .awaitLeaderHigh) (hf : c.leaderHigh.holds w.toNat) :
    decodePulse c w r = ⟨r.beginFrame, none⟩ := by
  rw [decodePulse_leaderHigh c w h, if_pos (inWindow_of_holds hf)]

/-- A repeat marker's high pulse goes to REPEAT (R145). -/
theorem decodePulse_marker {c : Config} {w : Ticks} {r : Registers} (h : r.status = .awaitLeaderHigh)
    (hf : ¬ c.leaderHigh.holds w.toNat) (hr : c.repeatHigh.holds w.toNat) :
    decodePulse c w r = ⟨(repeatMarker c r).regs.goto .awaitLeaderLow, (repeatMarker c r).key⟩ := by
  simp [decodePulse_leaderHigh c w h, inWindow_of_not_holds hf, inWindow_of_holds hr]

/-- A high pulse in neither leader window abandons the frame (R146). -/
theorem decodePulse_abandon {c : Config} {w : Ticks} {r : Registers} (h : r.status = .awaitLeaderHigh)
    (hf : ¬ c.leaderHigh.holds w.toNat) (hr : ¬ c.repeatHigh.holds w.toNat) :
    decodePulse c w r = ⟨r.goto .awaitLeaderLow, none⟩ := by
  simp [decodePulse_leaderHigh c w h, inWindow_of_not_holds hf, inWindow_of_not_holds hr]

/-- A bit's low pulse in its window (R147). -/
theorem decodePulse_bitLow_accept {c : Config} {w : Ticks} {r : Registers}
    (h : r.status = .awaitBitLow) (hl : c.bitLow.holds w.toNat) :
    decodePulse c w r = ⟨r.rememberLow w, none⟩ := by
  rw [decodePulse_bitLow c w h, if_pos (inWindow_of_holds hl)]

/-- A bit's low pulse outside its window (R148). -/
theorem decodePulse_bitLow_reject {c : Config} {w : Ticks} {r : Registers}
    (h : r.status = .awaitBitLow) (hl : ¬ c.bitLow.holds w.toNat) :
    decodePulse c w r = redoEffect c w r := by
  simp [decodePulse_bitLow c w h, inWindow_of_not_holds hl]

/-- `repeat_cmd()` as the claims state it (R182). -/
theorem repeatCmd_eq (c : Config) (r : Registers) :
    repeatCmd c r = if c.repeatSource = .rxbuf then r.rxBuf.command else r.lastValidCmd := by
  cases h : c.repeatSource <;> simp [repeatCmd, h]

/-- Settles O24: the width is tested once, against the leader-low window. -/
theorem leaderLowTakesItsWindow : Obligations.LeaderLowTakesItsWindow :=
  fun s w harmed hstatus =>
    exec_width_of_redo harmed (decodePulse_leaderLow_eq_redo s.config w hstatus)

/-- Settles O25: the frame window is tested first. -/
theorem frameLeaderStartsBits : Obligations.FrameLeaderStartsBits :=
  fun _ _ harmed hstatus hframe => exec_width_of_no_key harmed (decodePulse_frameLeader hstatus hframe)

/-- Settles O26, by REPEAT's two cases, the filter met or not. -/
theorem repeatMarkerCountsThenEmits : Obligations.RepeatMarkerCountsThenEmits := by
  intro s w harmed hstatus hframe hrepeat
  dsimp only
  rw [exec_width_armed w harmed, decodePulse_marker hstatus hframe hrepeat, ← repeatCmd_eq]
  by_cases hmet : s.config.repeatFilter ≤ s.regs.repeatCount.toNat
  · rw [repeatMarker_met hmet, if_pos hmet]
    cases s.config.repeatEmitEn with
    | true => rfl
    | false => exact congrArg _ (State.finish_no_key ..)
  · rw [repeatMarker_below (Nat.lt_of_not_le hmet), if_neg hmet]
    exact congrArg _ (State.finish_no_key ..)

/-- Settles O27: a width in both windows is a frame leader (O25), one in neither abandons the frame. -/
theorem leaderHighTestsFrameFirstAndAbandons : Obligations.LeaderHighTestsFrameFirstAndAbandons :=
  fun s w harmed hstatus =>
    ⟨fun hframe _ => frameLeaderStartsBits s w harmed hstatus hframe,
      fun hframe hrepeat => exec_width_of_no_key harmed (decodePulse_abandon hstatus hframe hrepeat)⟩

/-- Settles O28: the low pulse is in its window. -/
theorem bitLowIsRemembered : Obligations.BitLowIsRemembered :=
  fun _ _ harmed hstatus hlow => exec_width_of_no_key harmed (decodePulse_bitLow_accept hstatus hlow)

/-- Settles O29: the rejected width is offered to AwaitLeaderLow. -/
theorem rejectedBitLowIsReoffered : Obligations.RejectedBitLowIsReoffered :=
  fun _ _ harmed hstatus hlow => exec_width_of_redo harmed (decodePulse_bitLow_reject hstatus hlow)

end Sys2Proof.Machine
end

section
/-! PROOFS. The bit pair (R149 to R158): an armed WIDTH in AwaitBitPair, the accepted bit, and the end of the frame. -/

namespace Sys2Proof.Machine

/-- A total that stands for a bit (R150, R151). -/
theorem decodePulse_bitPair_accept {c : Config} {w : Ticks} {r : Registers} {bit : Bool}
    (h : r.status = .awaitBitPair) (hb : c.takesBit bit (c.total r.lowWidth w)) :
    decodePulse c w r = acceptBit c bit r := by
  rw [decodePulse_bitPair c w h, pairTotal_eq_total, pairBit_of_takesBit hb]

/-- A total that stands for no bit (R152). -/
theorem decodePulse_bitPair_reject {c : Config} {w : Ticks} {r : Registers}
    (h : r.status = .awaitBitPair) (h0 : ¬ c.bit0.holds (c.total r.lowWidth w))
    (h1 : ¬ c.bit1.holds (c.total r.lowWidth w)) : decodePulse c w r = redoEffect c w r := by
  rw [decodePulse_bitPair c w h, pairTotal_eq_total, (pairBit_none_iff c _).mpr ⟨h0, h1⟩]

/-- Every accepted bit is counted (R153). -/
theorem acceptBit_bitCount (c : Config) (bit : Bool) (r : Registers) :
    (acceptBit c bit r).regs.bitCount = r.bitCount + 1#6 := by
  obtain ⟨-, h⟩ | ⟨-, -, h⟩ | ⟨-, -, h⟩ := acceptBit_cases c bit r <;> simp [h]

/-- The end of a frame writes no byte: the receive buffer is the one the byte store leaves (R154, R156). -/
theorem acceptBit_rxBuf (c : Config) (bit : Bool) (r : Registers) :
    (acceptBit c bit r).regs.rxBuf = (r.shiftBit bit).storeByte.rxBuf := by
  obtain ⟨-, h⟩ | ⟨-, -, h⟩ | ⟨-, -, h⟩ := acceptBit_cases c bit r <;> simp [h]

/-- A bit that completes a byte leaves it in its slot (R154). -/
theorem acceptBit_slot (c : Config) (bit : Bool) {r : Registers} {k : Fin 4}
    (h : r.bitCount.toNat + 1 = 8 * (k.val + 1)) :
    (acceptBit c bit r).regs.rxBuf.slot k = shiftIn bit r.byteAcc := by
  rw [acceptBit_rxBuf, shiftBit_storeByte_boundary bit r h]
  exact RxBuf.slot_store_same ..

/-- A bit that completes no byte is assembled, counted, and followed by the next bit (R153, R158). -/
theorem acceptBit_between (c : Config) (bit : Bool) {r : Registers}
    (h : (r.bitCount.toNat + 1) % 8 ≠ 0) :
    acceptBit c bit r = ⟨(r.shiftBit bit).goto .awaitBitLow, none⟩ := by
  have hlast : r.bitCount + 1#6 ≠ 32#6 := fun h32 => h (by rw [bitCount_of_succ_eq_32 h32]; rfl)
  simp [acceptBit, shiftBit_storeByte_between bit r h, hlast]

/-- The registers at the end of a frame: `ci` stored in the last slot, and 32 bits counted (R154, R155). -/
def Registers.endFrame (ci : Byte) (r : Registers) : Registers :=
  { r with
    status := .awaitLeaderLow
    rxBuf := { r.rxBuf with commandInverted := ci }
    byteAcc := 0x00#8
    bitCount := 32#6 }

/-- The 32nd bit ends its frame by the checksum of the buffer it has just completed (R155, R156). -/
theorem acceptBit_last (c : Config) (bit : Bool) {r : Registers} (h : r.bitCount = 31#6) :
    acceptBit c bit r =
      let ended := r.endFrame (shiftIn bit r.byteAcc)
      if checksumOk ended.rxBuf then ⟨ended.acceptFrame c, some (keyCode c r.rxBuf.command)⟩
      else ⟨ended, none⟩ := by
  have hstore := shiftBit_storeByte_boundary bit r (k := 3) (by rw [h]; rfl)
  simp only [acceptBit, hstore, h]
  rfl

/-- The checksum gate as the claims state it (R155). -/
theorem checksumOk_iff_mod (b : RxBuf) :
    checksumOk b = true ↔ (b.command.toNat + b.commandInverted.toNat) % 256 = 0xFF := by
  have hc := b.command.isLt
  have hi := b.commandInverted.isLt
  rw [checksumOk_iff]
  omega

/-- What a valid frame writes besides `status`, as the claims state it (R156, R187). -/
theorem Registers.acceptFrame_eq (c : Config) (r : Registers) :
    r.acceptFrame c = { r with
      repeatCount := 0#8
      lastValidCmd := if c.repeatSource = .lastvalid then r.rxBuf.command else r.lastValidCmd } := by
  rw [← Registers.acceptFrame_lastValidCmd]
  rfl

/-- Settles O31: the bit is accepted, and by R154 either completes no byte or leaves it in its slot. -/
theorem acceptedBitIsAssembled : Obligations.AcceptedBitIsAssembled := by
  intro s w bit acc harmed hstatus _ hbit hacc
  obtain rfl : acc = shiftIn bit s.regs.byteAcc := hacc.trans (shiftIn_eq bit _).symm
  refine ⟨s.finish (acceptBit s.config bit s.regs), ?_, acceptBit_bitCount .., ?_, ?_⟩
  · rw [exec_width_armed w harmed, decodePulse_bitPair_accept hstatus hbit]
  · intro hbetween
    rw [acceptBit_between _ _ hbetween, State.finish_no_key]
    rfl
  · exact fun _ hk => acceptBit_slot _ _ hk

/-- Settles O30: a total in both windows takes bit 0, so it is assembled as O31 says; one in neither is offered again. -/
theorem pairTestsBit0FirstAndReoffers : Obligations.PairTestsBit0FirstAndReoffers := by
  intro s w harmed hstatus
  refine ⟨fun h0 _ hcount => ?_, fun h0 h1 => ?_⟩
  · obtain ⟨t, hexec, hbits, hbetween, hslot⟩ :=
      acceptedBitIsAssembled s w false _ harmed hstatus hcount h0 rfl
    exact ⟨t, hexec, hbits, fun hn => by rw [hbetween hn]; rfl, hslot⟩
  · exact exec_width_of_redo harmed (decodePulse_bitPair_reject hstatus h0 h1)

/-- Settles O33, by the checksum of the buffer that holds the byte the step stores. -/
theorem frameEndsAtItsChecksum : Obligations.FrameEndsAtItsChecksum := by
  intro s w bit ci harmed hstatus hcount hbit hci
  obtain rfl : ci = shiftIn bit s.regs.byteAcc := hci.trans (shiftIn_eq bit _).symm
  rw [exec_width_armed w harmed, decodePulse_bitPair_accept hstatus hbit, acceptBit_last _ _ hcount]
  simp only [checksumOk_iff_mod, Registers.endFrame]
  split
  · rw [Registers.acceptFrame_eq]
    rfl
  · exact congrArg _ (State.finish_no_key ..)

end Sys2Proof.Machine
end

section
/-! PROOFS. The repeat filter (R183, R184): the changes of `repeatCount`. -/

namespace Sys2Proof.Machine

/-- START's effect on `repeatCount`, by `START_CLEARS_REPEAT` (R102). -/
theorem start_repeatCount (cfg : Config) (r : Registers) :
    (instrEffect cfg .start r).regs.repeatCount =
      if cfg.startClearsRepeat then 0#8 else r.repeatCount := by
  cases h : cfg.startClearsRepeat <;> simp [instrEffect, h]

/-- What DECODE of a delivered width does to `repeatCount` (R183, R184): of the outcomes for the key, a marker at or above the filter leaves it too. -/
theorem decodePulse_repeatCount_cases (s : State) (i : Instr) (w : Ticks) :
    let r := (decodePulse s.config w (s.regs.received i)).regs
    r.repeatCount = s.regs.repeatCount ∨
    (s.completesFrame w ∧ r.bitCount = 32#6 ∧
      r.rxBuf.command.toNat + r.rxBuf.commandInverted.toNat = 255 ∧ r.repeatCount = 0#8) ∨
    (s.takesMarker w ∧ s.regs.repeatCount.toNat < s.config.repeatFilter ∧
      r.repeatCount = s.regs.repeatCount + 1#8) := by
  obtain ⟨-, hkept, -⟩ | ⟨hframe, hbits, hsum, hzero, -⟩ |
      ⟨hmarker, -, ⟨hbelow, hcounted, -⟩ | ⟨-, hkept, -⟩⟩ := decodePulse_key_cases s i w
  · exact .inl hkept
  · exact .inr (.inl ⟨hframe, hbits, hsum, hzero⟩)
  · exact .inr (.inr ⟨hmarker, hbelow, hcounted⟩)
  · exact .inl hkept

/-- Settles O40, by what the event does: DECODE of the width it delivers, no more than the latch, or a control event's effect. -/
theorem repeatCountChangesOnlyAsStated : Obligations.RepeatCountChangesOnlyAsStated := by
  intro s i
  refine ⟨_, exec_eq_finish i s, ?_⟩
  simp only [State.finish_regs]
  obtain ⟨w, hw, h⟩ | h | h | ⟨hi, h⟩ | ⟨rfl, -⟩ | ⟨-, h⟩ := instrEffect_cases s i
  · rw [h]
    obtain hkept | hframe | hmarker := decodePulse_repeatCount_cases s i w
    · exact .inl hkept
    · exact .inr (.inr (.inr (.inl ⟨w, hw, hframe⟩)))
    · exact .inr (.inr (.inr (.inr ⟨w, hw, hmarker⟩)))
  · exact .inl (by rw [h])
  · exact .inl (by simp [h])
  · exact .inr (.inl ⟨hi, by rw [h]; rfl⟩)
  · rw [start_repeatCount]
    cases hclear : s.config.startClearsRepeat with
    | false => exact .inl rfl
    | true => exact .inr (.inr (.inl ⟨rfl, rfl, rfl⟩))
  · exact .inl (by simp [h])

end Sys2Proof.Machine
end

section
/-! PROOFS. The encoding (R70 to R74): the decoder's words, the encoder, and the opcode table. -/

namespace Sys2Proof

/-- The decoder reads back the fields the encoder wrote (R71, R74). -/
theorem decode_encode (i : Instr) : decode (encode i) = .event i := by
  rw [encode, decode_append]
  cases i <;> rfl

/-- An event without an operand is decoded from the operand 0 alone (R72). -/
theorem decodePlain_event {i j : Instr} {op : BitVec 4} {val : Ticks}
    (h : decodePlain i op val = .event j) : val = 0#16 ∧ i = j := by
  by_cases hv : val = 0#16
  · rw [hv, decodePlain_zero] at h
    exact ⟨hv, Decoded.event.inj h⟩
  · simp [decodePlain_ne_zero i op hv] at h

/-- The fields an event is decoded from are the ones the encoder gives it (R71, R72). -/
theorem decodeFields_event {op : BitVec 4} {val : Ticks} {i : Instr}
    (h : decodeFields op val = .event i) : op = opValue i ∧ val = valValue i := by
  unfold decodeFields at h
  split at h
  case h_1 hop | h_2 hop | h_3 hop | h_4 hop =>
    obtain ⟨rfl, rfl⟩ := decodePlain_event h
    exact ⟨BitVec.eq_of_toNat_eq hop, rfl⟩
  case h_5 hop | h_6 hop =>
    cases h
    exact ⟨BitVec.eq_of_toNat_eq hop, rfl⟩
  case h_7 => cases h

/-- A word decodes to an event exactly when it is that event's encoding. -/
theorem decode_event_iff {ev : EventWord} {i : Instr} : decode ev = .event i ↔ ev = encode i := by
  refine ⟨fun h => ?_, fun h => h ▸ decode_encode i⟩
  obtain ⟨hop, hval⟩ := decodeFields_event h
  rw [← fields_append ev, hop, hval, encode]

/-- A row whose mask tests every bit covers the one word of its event (R72). -/
theorem covers_allOnes_iff {name : String} {i : Instr} (hname : ∀ j, mnemonic j = name ↔ j = i)
    (ev : EventWord) :
    (OpcodeRow.mk name (encode i) (BitVec.allOnes 20)).covers ev = true ↔
      ∃ j, decode ev = .event j ∧ mnemonic j = name := by
  simp only [OpcodeRow.covers, BitVec.and_allOnes, beq_iff_eq, decode_event_iff, hname, exists_eq_right]

/-- A row whose mask tests the `op` field alone covers the words of its event with every operand (R72). -/
theorem covers_opMask_iff {name : String} {op : BitVec 4} {mk : Ticks → Instr}
    (henc : ∀ v, encode (mk v) = op ++ v) (hname : ∀ j, mnemonic j = name ↔ ∃ v, j = mk v)
    (ev : EventWord) :
    (OpcodeRow.mk name (op ++ 0#16) (BitVec.allOnes 4 ++ 0#16)).covers ev = true ↔
      ∃ j, decode ev = .event j ∧ mnemonic j = name := by
  have hfields : ev &&& (BitVec.allOnes 4 ++ 0#16) = opField ev ++ 0#16 := by
    rw [← fields_append ev, BitVec.and_append, BitVec.and_allOnes, BitVec.and_zero, opField_append]
  simp only [OpcodeRow.covers, hfields, beq_iff_eq, decode_event_iff, hname]
  constructor
  · intro hop
    obtain rfl : opField ev = op := by simpa only [opField_append] using congrArg opField hop
    exact ⟨_, by rw [henc (valField ev), fields_append], valField ev, rfl⟩
  · rintro ⟨j, rfl, v, rfl⟩
    rw [henc, opField_append]

/-- Settles O2, by `decode_encode`; well-formedness excludes no event. -/
theorem decodeOfEncodeIsTheEvent : Obligations.DecodeOfEncodeIsTheEvent :=
  fun i _ => decode_encode i

/-- Settles O3, by the fields a decoded word must have. -/
theorem everyEventHasOneWord : Obligations.EveryEventHasOneWord :=
  fun _ _ h => decode_event_iff.mp h

/-- Settles O4, row by row: four rows of one word, and two rows with every operand. -/
theorem decoderAgreesWithOpcodeTable : Obligations.DecoderAgreesWithOpcodeTable := by
  intro ev row hrow
  simp only [opcodeRows, List.mem_cons, List.not_mem_nil, or_false] at hrow
  obtain rfl | rfl | rfl | rfl | rfl | rfl := hrow
  · exact covers_allOnes_iff (i := .nop) (fun j => by cases j <;> simp [mnemonic]) ev
  · exact covers_allOnes_iff (i := .reset) (fun j => by cases j <;> simp [mnemonic]) ev
  · exact covers_allOnes_iff (i := .start) (fun j => by cases j <;> simp [mnemonic]) ev
  · exact covers_allOnes_iff (i := .stop) (fun j => by cases j <;> simp [mnemonic]) ev
  · exact covers_opMask_iff (mk := .edge) (fun _ => rfl) (fun j => by cases j <;> simp [mnemonic]) ev
  · exact covers_opMask_iff (mk := .width) (fun _ => rfl) (fun j => by cases j <;> simp [mnemonic]) ev

end Sys2Proof
end

section
/-! PROOFS. The invariants of the state record (R33): at reset, under each operation, and under every step. -/

namespace Sys2Proof.Machine

/-- After reset every clause holds with all registers 0 (R34). -/
theorem Registers.inv_reset (c : Config) : Registers.reset.Inv c :=
  ⟨Nat.zero_le _, by decide, by decide, by simp [Registers.reset], by decide⟩

/-- Outside the bit states R33 bounds the two counters only. -/
theorem Registers.inv_of_not_inBits {c : Config} {r : Registers}
    (hrep : r.repeatCount.toNat ≤ c.repeatFilter) (hcount : r.bitCount.toNat ≤ 32) (hbits : ¬ r.inBits) :
    r.Inv c :=
  ⟨hrep, hcount, fun h => absurd h hbits, fun h => absurd (.inr h) hbits, fun h => absurd h hbits⟩

/-- Leaving the bit states keeps the invariants. -/
theorem Registers.Inv.goto {c : Config} {r : Registers} (h : r.Inv c) {st : Status}
    (hlow : st ≠ .awaitBitLow) (hpair : st ≠ .awaitBitPair) : (r.goto st).Inv c := by
  obtain ⟨hrep, hcount, -⟩ := h
  exact Registers.inv_of_not_inBits hrep hcount (by simp [Registers.inBits, hlow, hpair])

/-- A width offered to AwaitLeaderLow again leaves the bit states. -/
theorem Registers.Inv.redoEffect {c : Config} {r : Registers} (h : r.Inv c) (w : Ticks) :
    (redoEffect c w r).regs.Inv c := by
  unfold Machine.redoEffect
  split <;> exact h.goto (by decide) (by decide)

/-- A frame leader starts with no bit received (R144). -/
theorem Registers.Inv.beginFrame {c : Config} {r : Registers} (h : r.Inv c) : r.beginFrame.Inv c := by
  obtain ⟨hrep, -⟩ := h
  exact ⟨hrep, by simp, by simp, by simp, by simp⟩

/-- A bit's low pulse stays in its window (R147). -/
theorem Registers.Inv.rememberLow {c : Config} {r : Registers} {w : Ticks} (h : r.Inv c)
    (hst : r.status = .awaitBitLow) (hw : c.bitLow.holds w.toNat) : (r.rememberLow w).Inv c := by
  obtain ⟨hrep, hcount, hcount31, -, hacc⟩ := h
  exact ⟨hrep, hcount, fun _ => hcount31 (.inl hst), fun _ => hw, fun _ => hacc (.inl hst)⟩

/-- REPEAT counts up to the filter and no further (R181, R185). -/
theorem repeatMarker_repeatCount_le {c : Config} {r : Registers} (h : r.repeatCount.toNat ≤ c.repeatFilter) :
    (repeatMarker c r).regs.repeatCount.toNat ≤ c.repeatFilter := by
  by_cases hmet : c.repeatFilter ≤ r.repeatCount.toNat
  · rw [repeatMarker_met hmet]
    exact h
  · rw [repeatMarker_below (Nat.lt_of_not_le hmet)]
    simp only [BitVec.toNat_add, BitVec.toNat_ofNat]
    omega

/-- A marker ends in AwaitLeaderLow with its count within the filter. -/
theorem Registers.Inv.repeatMarker {c : Config} {r : Registers} (h : r.Inv c) :
    ((repeatMarker c r).regs.goto .awaitLeaderLow).Inv c := by
  obtain ⟨hrep, hcount, -⟩ := h
  refine Registers.inv_of_not_inBits (repeatMarker_repeatCount_le hrep) ?_ (by simp [Registers.inBits])
  rw [repeatMarker_regs]
  exact hcount

/-- The shift leaves one bit fewer to receive, while the byte is not complete (R153). -/
theorem shiftIn_mod (bit : Bool) {acc : Byte} {n : Nat} (hn : (n + 1) % 8 ≠ 0)
    (h : acc.toNat % 2 ^ (8 - n % 8) = 0) : (shiftIn bit acc).toNat % 2 ^ (8 - (n + 1) % 8) = 0 := by
  have hacc := acc.isLt
  have hbit : (if bit then 128 else 0) = 128 ∨ (if bit then 128 else 0) = 0 := by cases bit <;> simp
  rw [shiftIn_eq, BitVec.toNat_ofNat]
  generalize (if bit then 128 else 0) = b at hbit ⊢
  have hm : n % 8 < 7 := by omega
  have hs : (n + 1) % 8 = n % 8 + 1 := by omega
  rw [hs]
  generalize n % 8 = m at h hm
  interval_cases m <;> norm_num at h ⊢ <;> omega

/-- The count after an accepted bit, within a frame (R153). -/
theorem bitCount_succ_toNat {n : BitVec 6} (h : n.toNat ≤ 31) : (n + 1#6).toNat = n.toNat + 1 := by
  simp only [BitVec.toNat_add, BitVec.toNat_ofNat]
  omega

/-- The byte under construction after an accepted bit: cleared with its store, or one bit shorter of complete (R153, R154). -/
theorem shiftBit_storeByte_byteAcc_mod (bit : Bool) {r : Registers} (hcount : r.bitCount.toNat ≤ 31)
    (hacc : r.byteAcc.toNat % 2 ^ (8 - r.bitCount.toNat % 8) = 0) :
    (r.shiftBit bit).storeByte.byteAcc.toNat % 2 ^ (8 - (r.bitCount + 1#6).toNat % 8) = 0 := by
  rw [bitCount_succ_toNat hcount]
  by_cases hn : (r.bitCount.toNat + 1) % 8 = 0
  · have hk : r.bitCount.toNat + 1 = 8 * ((⟨r.bitCount.toNat / 8, by omega⟩ : Fin 4).val + 1) := by
      dsimp only
      omega
    rw [shiftBit_storeByte_boundary bit r hk]
    exact Nat.zero_mod _
  · rw [shiftBit_storeByte_between bit r hn]
    exact shiftIn_mod bit hn hacc

/-- An accepted bit keeps the invariants: the next bit is awaited within the frame, and the frame's end leaves the bit states. -/
theorem Registers.Inv.acceptBit {c : Config} {r : Registers} (h : r.Inv c)
    (hst : r.status = .awaitBitPair) (bit : Bool) : (acceptBit c bit r).regs.Inv c := by
  obtain ⟨hrep, -, hcount31, -, hacc⟩ := h
  have hcount := hcount31 (.inr hst)
  have hsucc := bitCount_succ_toNat hcount
  obtain ⟨hlast, e⟩ | ⟨hlast, -, e⟩ | ⟨hlast, -, e⟩ := acceptBit_cases c bit r <;> rw [e]
  · have hcount' : (r.bitCount + 1#6).toNat ≤ 31 := by
      have : (r.bitCount + 1#6).toNat ≠ 32 := fun h => hlast (BitVec.eq_of_toNat_eq h)
      omega
    exact ⟨by simpa using hrep, by simpa using Nat.le_succ_of_le hcount', fun _ => by simpa using hcount',
      by simp, fun _ => by simpa using shiftBit_storeByte_byteAcc_mod bit hcount (hacc (.inr hst))⟩
  · exact Registers.inv_of_not_inBits (by simpa using hrep) (by simp [hlast]) (by simp [Registers.inBits])
  · exact Registers.inv_of_not_inBits (by simp) (by simp [hlast]) (by simp [Registers.inBits])

/-- DECODE keeps the invariants, in each of its cases. -/
theorem Registers.Inv.decodePulse {c : Config} {r : Registers} (h : r.Inv c) (w : Ticks) :
    (decodePulse c w r).regs.Inv c := by
  obtain ⟨-, e⟩ | ⟨-, -, e⟩ | ⟨-, -, -, e⟩ | ⟨-, -, -, e⟩ | ⟨hst, hw, e⟩ | ⟨-, -, e⟩ | ⟨-, -, e⟩ |
      ⟨hst, bit, -, e⟩ := decodePulse_cases c w r <;> rw [e]
  · dsimp only
    split
    · exact h.goto (by decide) (by decide)
    · exact h
  · exact h.beginFrame
  · exact h.repeatMarker
  · exact h.goto (by decide) (by decide)
  · exact h.rememberLow hst ((inWindow_iff _ _).mp hw)
  · exact h.redoEffect w
  · exact h.redoEffect w
  · exact h.acceptBit hst bit

/-- START leaves the bit states, with the repeat count kept or cleared (R102). -/
theorem Registers.Inv.start {c : Config} {r : Registers} (h : r.Inv c) :
    (instrEffect c .start r).regs.Inv c := by
  obtain ⟨hrep, -⟩ := h
  have hcleared : (if c.startClearsRepeat then r.clearFrame.clearRepeat else r.clearFrame).Inv c := by
    split
    · exact Registers.inv_of_not_inBits (by simp) (by simp) (by simp [Registers.inBits])
    · exact Registers.inv_of_not_inBits (by simpa using hrep) (by simp) (by simp [Registers.inBits])
  exact hcleared

/-- Every event keeps the invariants. The clauses name none of the registers a latch or STOP writes. -/
theorem State.Inv.instrEffect {s : State} (h : s.Inv) (i : Instr) :
    (instrEffect s.config i s.regs).regs.Inv s.config := by
  have hreceived : (s.regs.received i).Inv s.config := by
    simpa only [Registers.Inv, Registers.inBits, Registers.received_status, Registers.received_repeatCount,
      Registers.received_lowWidth, Registers.received_byteAcc, Registers.received_bitCount] using h
  obtain ⟨w, -, e⟩ | e | e | ⟨-, e⟩ | ⟨rfl, -⟩ | ⟨-, e⟩ := instrEffect_cases s i
  · rw [e]
    exact hreceived.decodePulse w
  · rw [e]
    exact h
  · rw [e]
    exact hreceived
  · rw [e]
    exact Registers.inv_reset s.config
  · exact Registers.Inv.start h
  · rw [e]
    exact h

/-- Settles O44: the next state holds the registers of its event's effect. -/
theorem stepKeepsTheInvariants : Obligations.StepKeepsTheInvariants := by
  intro s t hinv hstep
  obtain ⟨-, ev, rest, i, -, -, rfl⟩ := step_next_cases hstep
  exact hinv.instrEffect i

/-- Settles O45: both start from the registers of R34. -/
theorem resetHasTheInvariants : Obligations.ResetHasTheInvariants :=
  ⟨Registers.inv_reset _, Registers.inv_reset⟩

end Sys2Proof.Machine
end

section
/-! PROOFS. The textual syntax (R75, R77): case, comments, numbers, and the text of an event. -/

namespace Sys2Proof.Machine

/-- A lower-case letter's capital is an ASCII capital. -/
theorem capital_toNat {c : Char} (h : 97 ≤ c.toNat ∧ c.toNat ≤ 122) : (capital c).toNat = c.toNat - 32 := by
  rw [capital, if_pos h, Char.toNat_ofNat, if_pos (.inl (by omega))]

/-- A character that is no lower-case letter is its own capital. -/
theorem capital_of_not_lower {c : Char} (h : ¬ (97 ≤ c.toNat ∧ c.toNat ≤ 122)) : capital c = c := if_neg h

/-- Capitals are capitalised already. -/
@[simp] theorem capital_capital (c : Char) : capital (capital c) = capital c := by
  by_cases h : 97 ≤ c.toNat ∧ c.toNat ≤ 122
  · exact capital_of_not_lower (by rw [capital_toNat h]; omega)
  · rw [capital_of_not_lower h, capital_of_not_lower h]

/-- Capitalising makes and removes no semicolon. -/
theorem capital_eq_semicolon_iff (c : Char) : capital c = ';' ↔ c = ';' := by
  by_cases h : 97 ≤ c.toNat ∧ c.toNat ≤ 122
  · constructor
    · intro hc
      have := capital_toNat h
      rw [hc] at this
      have h59 : (';' : Char).toNat = 59 := rfl
      omega
    · rintro rfl
      exact absurd h (by decide)
  · rw [capital_of_not_lower h]

/-- A comment is found in the same place of a capitalised line. -/
theorem stripComment_map_capital (line : List Char) :
    stripComment (line.map capital) = (stripComment line).map capital := by
  have hp : (fun c => c != ';') ∘ capital = fun c => c != ';' := by
    funext c
    simp [bne, capital_eq_semicolon_iff]
  rw [stripComment, List.takeWhile_map, hp, stripComment]

/-- A comment appended to a line is dropped with its semicolon. -/
theorem stripComment_append_comment (line rest : List Char) :
    stripComment (line ++ ';' :: rest) = stripComment line := by
  unfold stripComment
  induction line with
  | nil => rfl
  | cons c cs ih => simp only [List.cons_append, List.takeWhile_cons, ih]

/-- A line is assembled from the capitals of what stands before its comment, so capitalising it first changes nothing. -/
theorem assembleLine_map_capital (line : List Char) :
    assembleLine (line.map capital) = assembleLine line := by
  have hcomp : capital ∘ capital = capital := funext capital_capital
  rw [assembleLine, stripComment_map_capital, List.map_map, hcomp, assembleLine]

/-- Settles O7: a line is read as the capitals of what stands before its comment. -/
theorem caseAndCommentsDoNotMatter : Obligations.CaseAndCommentsDoNotMatter :=
  fun line rest => ⟨assembleLine_map_capital line, by
    rw [assembleLine, stripComment_append_comment, assembleLine]⟩

/-- A character of a word that a line holds as it stands: no blank, no comment, its own capital. -/
def Plain (c : Char) : Prop := isBlank c = false ∧ c ≠ ';' ∧ capital c = c

/-- Plain words parted by blanks are assembled as they stand. -/
theorem assembleLine_of_plain {text : List Char} (h : ∀ c ∈ text, Plain c ∨ c = ' ') :
    assembleLine text = assembleWords (words text) := by
  have hkept : ∀ c ∈ text, c ≠ ';' ∧ capital c = c := by
    intro c hc
    obtain ⟨-, hkept⟩ | rfl := h c hc
    · exact hkept
    · decide
  have hstrip : stripComment text = text :=
    List.takeWhile_eq_self_iff.mpr fun c hc => bne_iff_ne.mpr (hkept c hc).1
  have hmap : text.map capital = text :=
    (List.map_congr_left fun c hc => (hkept c hc).2).trans (List.map_id text)
  rw [assembleLine, hstrip, hmap]

/-- A plain word before a break is one word of its text. -/
theorem words_append_of_atBreak {w rest : List Char} (hne : w ≠ []) (hw : ∀ c ∈ w, Plain c)
    (hrest : atBreak rest = true) : words (w ++ rest) = w :: words rest := by
  induction w with
  | nil => exact absurd rfl hne
  | cons c cs ih =>
    obtain ⟨⟨hc, -⟩, hcs⟩ := List.forall_mem_cons.mp hw
    cases cs with
    | nil => simp [words, hc, hrest]
    | cons d ds =>
      obtain ⟨hd, -⟩ := hcs d List.mem_cons_self
      have hrec := ih (List.cons_ne_nil _ _) hcs
      rw [List.cons_append, words, hrec]
      simp [atBreak, hc, hd, consFirst]

/-- What the assembler makes of the character of a decimal digit. -/
theorem digitChar_spec {d : Nat} (hd : d < 10) :
    digitValue 10 (digitChar d) = some d ∧ Plain (digitChar d) ∧ digitChar d ≠ 'X' := by
  unfold Plain
  revert d
  decide

/-- A printed number is made of decimal digits. -/
theorem mem_decimalDigits {c : Char} {fuel n : Nat} (h : c ∈ decimalDigits fuel n) :
    ∃ d < 10, c = digitChar d := by
  induction fuel generalizing n with
  | zero => cases h
  | succ fuel ih =>
    unfold decimalDigits at h
    split at h
    · next hn => exact ⟨n, hn, List.mem_singleton.mp h⟩
    · obtain h | h := List.mem_append.mp h
      · exact ih h
      · exact ⟨n % 10, Nat.mod_lt _ (by decide), List.mem_singleton.mp h⟩

/-- A number is printed in at least one digit (R77). -/
theorem decimalDigits_ne_nil (fuel n : Nat) : decimalDigits (fuel + 1) n ≠ [] := by
  unfold decimalDigits
  split <;> simp

/-- Digits are read from the left, each onto what the ones before it give. -/
theorem readDigits_append (base acc : Nat) (xs ys : List Char) :
    readDigits base acc (xs ++ ys) = (readDigits base acc xs).bind fun n => readDigits base n ys := by
  induction xs generalizing acc with
  | nil => rfl
  | cons x xs ih =>
    simp only [List.cons_append, readDigits]
    cases digitValue base x with
    | none => rfl
    | some v => exact ih _

/-- The digits printed are read back, where the fuel suffices for them. -/
theorem readDigits_decimalDigits {fuel n : Nat} (h : n < 10 ^ fuel) :
    readDigits 10 0 (decimalDigits fuel n) = some n := by
  induction fuel generalizing n with
  | zero => simp_all [decimalDigits, readDigits]
  | succ fuel ih =>
    unfold decimalDigits
    split
    · next hn => simp [readDigits, (digitChar_spec hn).1]
    · have hmod := (digitChar_spec (Nat.mod_lt n (by decide : 10 > 0))).1
      rw [readDigits_append, ih (by rw [Nat.pow_succ] at h; omega), Option.bind_some]
      simp only [readDigits, hmod, Option.some.injEq]
      omega

/-- An operand printed in decimal is read back (R75, R77). -/
theorem readNumber_decimal (v : Ticks) : readNumber (decimal v) = some v.toNat := by
  have hread : readDigits 10 0 (decimal v) = some v.toNat :=
    readDigits_decimalDigits (Nat.lt_of_lt_of_le v.isLt (by decide))
  have hne : decimal v ≠ [] := decimalDigits_ne_nil 4 _
  unfold readNumber
  split
  · next ds heq =>
    have hX : 'X' ∈ decimal v := by simp [heq]
    obtain ⟨d, hd, hXd⟩ := mem_decimalDigits hX
    obtain ⟨-, -, hne⟩ := digitChar_spec hd
    exact absurd hXd.symm hne
  · obtain ⟨c, cs, hcs⟩ := List.exists_cons_of_ne_nil hne
    rw [hcs, readNumberIn, ← hcs, hread]

/-- A printed operand is a plain word. -/
theorem decimal_plain (v : Ticks) : ∀ c ∈ decimal v, Plain c := by
  intro c hc
  obtain ⟨d, hd, rfl⟩ := mem_decimalDigits hc
  obtain ⟨-, hplain, -⟩ := digitChar_spec hd
  exact hplain

/-- A mnemonic and a printed operand are assembled to the event (R75, R77). -/
theorem assembleLine_operand {name : List Char} {mk : Ticks → Instr} (hne : name ≠ [])
    (hname : ∀ c ∈ name, Plain c) (hmk : ∀ n, assembleWords [name, n] = assembleOperand mk n) (v : Ticks) :
    assembleLine (name ++ ' ' :: decimal v) = .event (mk v) := by
  have hline : ∀ c ∈ name ++ ' ' :: decimal v, Plain c ∨ c = ' ' := by
    intro c hc
    obtain hc | rfl | hc : c ∈ name ∨ c = ' ' ∨ c ∈ decimal v := by simpa using hc
    · exact .inl (hname c hc)
    · exact .inr rfl
    · exact .inl (decimal_plain v c hc)
  have hoperand : words (' ' :: decimal v) = [decimal v] := by
    have h := words_append_of_atBreak (rest := []) (decimalDigits_ne_nil 4 v.toNat) (decimal_plain v) rfl
    rwa [List.append_nil] at h
  rw [assembleLine_of_plain hline, words_append_of_atBreak hne hname rfl, hoperand, hmk,
    assembleOperand, readNumber_decimal]
  simp [Nat.le_of_lt_succ v.isLt]

/-- A printed event is assembled to itself (R75, R77). -/
theorem assembleLine_printInstr (i : Instr) : assembleLine (printInstr i) = .event i := by
  cases i with
  | nop | reset | start | stop => decide
  | edge c =>
    exact assembleLine_operand (name := ['E', 'D', 'G', 'E']) (List.cons_ne_nil _ _)
      (by simp [Plain, isBlank, capital]) (fun _ => rfl) c
  | width w =>
    exact assembleLine_operand (name := ['W', 'I', 'D', 'T', 'H']) (List.cons_ne_nil _ _)
      (by simp [Plain, isBlank, capital]) (fun _ => rfl) w

/-- Settles O6: a word that decodes to an event is printed as that event, and is its one word. -/
theorem printThenAssembleGivesTheWord : Obligations.PrintThenAssembleGivesTheWord := by
  intro ev i h
  refine ⟨?_, (decode_event_iff.mp h).symm⟩
  rw [printWord, h]
  exact assembleLine_printInstr i

end Sys2Proof.Machine
end

section
/-! PROOFS. The step and runs of a machine (R8, R12, R200, R215, R251), and the events on the whole record (R29, R34, R101, R207). -/

namespace Sys2Proof

/-- R8's conditions as numbers; the one on `KEY_BASE` holds by its type. -/
theorem Config.wellFormed_iff (c : Config) :
    c.wellFormed = true ↔
      c.leaderLow.min ≤ c.leaderLow.max ∧ c.leaderHigh.min ≤ c.leaderHigh.max ∧
      c.repeatHigh.min ≤ c.repeatHigh.max ∧ c.bitLow.min ≤ c.bitLow.max ∧
      c.bit0.min ≤ c.bit0.max ∧ c.bit1.min ≤ c.bit1.max ∧
      c.repeatFilter ≤ 255 ∧ c.keyBase.toNat ≤ 255 := by
  have hkey : c.keyBase.toNat ≤ 255 := Nat.le_of_lt_succ c.keyBase.isLt
  simp [Config.wellFormed, Window.ordered, hkey, and_assoc]

/-- Settles O1: each word is decoded by evaluation of its two fields. -/
theorem specWordsDecode : Obligations.SpecWordsDecode := by
  refine ⟨?_, ?_, ?_, ?_, ?_, ?_, ?_, ?_, ?_, ?_, ?_, ?_⟩ <;> rfl

end Sys2Proof

namespace Sys2Proof.Machine

/-- With no event left a step reports the end of the stream (R251). -/
theorem step_of_no_event {s : State} (hc : s.config.wellFormed = true) (hev : s.events = []) :
    step s = .fault .endOfStream := by
  simp [step, hc, fetch, hev]

/-- Only an ill-formed configuration is refused as one (R8). -/
theorem step_ne_illFormed {s : State} (hc : s.config.wellFormed = true) :
    step s ≠ .refused .illFormedConfiguration := by
  cases hev : s.events with
  | nil => simp [step_of_no_event hc hev]
  | cons ev rest =>
    cases hd : decode ev with
    | event i => simp [step_of_event hc hev hd]
    | reserved why => simp [step_of_reserved hc hev hd]

/-- Settles O8: the step's event arm. -/
theorem stepRunsTheDecodedEvent : Obligations.StepRunsTheDecodedEvent := by
  intro s ev rest i hc hev hd
  rw [step_of_event hc hev hd, exec_eq_finish]

/-- Settles O9: an ill-formed configuration is refused first, and a well-formed one never as such. -/
theorem illFormedConfigurationIsRefused : Obligations.IllFormedConfigurationIsRefused := by
  intro s
  rw [← Config.wellFormed_iff]
  exact ⟨fun hc => if_neg hc, fun h hc => step_ne_illFormed hc h⟩

/-- Settles O10: the fetch finds no word. -/
theorem emptyStreamEndsTheRun : Obligations.EmptyStreamEndsTheRun :=
  fun _ hc hev => step_of_no_event hc hev

/-- Settles O11, by the one form of a next state. -/
theorem stepTakesOneEventAndLogsItsKey : Obligations.StepTakesOneEventAndLogsItsKey := by
  intro s t hstep
  obtain ⟨-, ev, rest, i, hev, -, rfl⟩ := step_next_cases hstep
  exact ⟨⟨ev, hev⟩, rfl, rfl⟩

/-- A legal word is one that decodes to an event. -/
theorem legalWord_iff {ev : EventWord} : legalWord ev = true ↔ ∃ i, decode ev = .event i := by
  unfold legalWord
  cases decode ev <;> simp

/-- Settles O12, by induction on the stream: each step leaves a safe machine with one word less. -/
theorem safeStreamRunsToItsEnd : Obligations.SafeStreamRunsToItsEnd := by
  intro s ⟨hc, hlegal⟩
  induction hev : s.events generalizing s with
  | nil => exact ⟨s, rfl, hev, step_of_no_event hc hev⟩
  | cons ev rest ih =>
    rw [hev, List.all_cons, Bool.and_eq_true, legalWord_iff] at hlegal
    obtain ⟨⟨i, hd⟩, hrest⟩ := hlegal
    rw [List.length_cons, run_of_next _ (step_of_event hc hev hd)]
    exact ih (State.finish { s with events := rest } _) hc hrest rfl

/-- EDGE keeps `armed`, in each of its three cases (R120). -/
theorem serializeEdge_armed (cfg : Config) (c : Ticks) (r : Registers) :
    (serializeEdge cfg c r).regs.armed = r.armed := by
  cases harmed : r.armed with
  | false => rw [serializeEdge_disarmed c harmed, harmed]
  | true =>
    cases hb : baselinePending cfg r with
    | true => rw [serializeEdge_baseline c harmed hb, Registers.latch_armed, harmed]
    | false =>
      obtain ⟨-, hkept, -⟩ := decodePulse_frame cfg (captureWidth c r.lastCapture) (r.latch c)
      rw [serializeEdge_decoded c harmed hb, hkept, Registers.latch_armed, harmed]

/-- WIDTH keeps `armed`, in each of its two cases (R126). -/
theorem serializeWidth_armed (cfg : Config) (w : Ticks) (r : Registers) :
    (serializeWidth cfg w r).regs.armed = r.armed := by
  cases harmed : r.armed with
  | false => rw [serializeWidth_disarmed w harmed, harmed]
  | true =>
    obtain ⟨-, hkept, -⟩ := decodePulse_frame cfg w r
    rw [serializeWidth_decoded w harmed, hkept, harmed]

/-- START arms, STOP and RESET disarm, and no other event writes `armed` (R29). -/
theorem instrEffect_armed (cfg : Config) (i : Instr) (r : Registers) :
    (instrEffect cfg i r).regs.armed = armedAfter r.armed i := by
  cases i with
  | nop | reset | start | stop => rfl
  | edge c => exact serializeEdge_armed cfg c r
  | width w => exact serializeWidth_armed cfg w r

/-- Settles O46: the next state holds the registers of the event's effect. -/
theorem armedFollowsStartStopReset : Obligations.ArmedFollowsStartStopReset :=
  fun s i => ⟨_, exec_eq_finish i s, instrEffect_armed s.config i s.regs⟩

/-- Settles O13: RESET's effect is the record of R34. -/
theorem resetGivesTheResetValues : Obligations.ResetGivesTheResetValues := by
  refine ⟨rfl, fun v hv => ?_, rfl, fun s => exec_of_no_key rfl⟩
  rw [decode_append]
  exact decodePlain_ne_zero .reset 0x1#4 hv

/-- Settles O34: the exact sum, which pins the inverted byte. -/
theorem checksumPassesExactlyTheComplement : Obligations.ChecksumPassesExactlyTheComplement := by
  intro b
  have hc := b.command.isLt
  have hi := b.commandInverted.isLt
  rw [checksumOk_iff]
  refine ⟨Iff.rfl, ?_, ?_⟩
  · rw [← BitVec.toNat_inj, BitVec.toNat_sub, BitVec.toNat_ofNat]
    omega
  · rw [← BitVec.toNat_inj, BitVec.toNat_not]
    omega

/-- A control pin presents its event exactly when it is high. -/
theorem whenHigh_eq_filter (pin : Bool) (i : Instr) :
    whenHigh pin i = ([(pin, i)].filter Prod.fst).map Prod.snd := by
  cases pin <;> rfl

/-- Settles O48, pin by pin. -/
theorem pinsAreSerialisedInOrder : Obligations.PinsAreSerialisedInOrder := by
  intro p
  rw [Pins.serialize, whenHigh_eq_filter, whenHigh_eq_filter, whenHigh_eq_filter, ← List.map_append,
    ← List.filter_append, ← List.map_append, ← List.filter_append]
  rfl

/-- A run of presented events runs the first, then the others. -/
theorem run_presentAll_cons {s : State} (hc : s.config.wellFormed = true) (i : Instr) (is : List Instr) :
    run (i :: is).length (s.presentAll (i :: is)) =
      run is.length ((s.finish (instrEffect s.config i s.regs)).presentAll is) :=
  run_of_next _ (step_presentAll hc (decode_encode i))

/-- A stream of events none of which has an effect on a machine that drives no key goes by without one. -/
theorem run_presentAll_of_no_effect {s : State} {is : List Instr} (hc : s.config.wellFormed = true)
    (hkey : s.keyOut = none) (h : ∀ i ∈ is, instrEffect s.config i s.regs = ⟨s.regs, none⟩) :
    run is.length (s.presentAll is) = .next s := by
  induction is with
  | nil => rfl
  | cons i is ih =>
    obtain ⟨hi, his⟩ := List.forall_mem_cons.mp h
    have hfinish : s.finish ⟨s.regs, none⟩ = s := by
      rw [State.finish_no_key, ← hkey]
    rw [run_presentAll_cons hc, hi, hfinish]
    exact ih his

/-- A data event has no effect on a disarmed block (R125). -/
theorem instrEffect_data_disarmed {cfg : Config} {i : Instr} {r : Registers} (hi : isData i = true)
    (harmed : r.armed = false) : instrEffect cfg i r = ⟨r, none⟩ := by
  cases i with
  | edge c => exact serializeEdge_disarmed c harmed
  | width w => exact serializeWidth_disarmed w harmed
  | nop | reset | start | stop => cases hi

/-- Settles O47: none of the events has an effect. -/
theorem stoppedBlockStaysQuiet : Obligations.StoppedBlockStaysQuiet :=
  fun _ _ hc harmed hkey hdata =>
    run_presentAll_of_no_effect hc hkey fun i hi => instrEffect_data_disarmed (hdata i hi) harmed

end Sys2Proof.Machine
end

section
/-! PROOFS. The serializer in front of DECODE (R121, R126, R127, R76): captures and widths carry the same pulses. -/

namespace Sys2Proof.Machine

/-- Two counts of the external timer are apart by the ticks between them, modulo 65536 (R121, R210). -/
theorem captureWidth_timerCount (origin : Ticks) (t gap : Nat) :
    captureWidth (timerCount origin (t + gap)) (timerCount origin t) = BitVec.ofNat 16 gap := by
  rw [captureWidth, timerCount, timerCount, BitVec.ofNat_add, ← BitVec.add_assoc, BitVec.add_comm,
    BitVec.add_sub_cancel]

/-- The width of a pulse is what the cursor advances by, modulo 65536 (R76, R121). -/
theorem captureWidth_advance (t : Ticks) (w : Nat) : captureWidth (advance t w) t = BitVec.ofNat 16 w := by
  rw [captureWidth, advance, BitVec.add_comm, BitVec.add_sub_cancel]

/-- Settles O21: the serializer computes the gap modulo 65536, and both events hand it to DECODE on the same registers. -/
theorem edgeGapIsSeenModulo65536 : Obligations.EdgeGapIsSeenModulo65536 := by
  intro s origin w t gap harmed hb hlast hw
  obtain rfl : w = BitVec.ofNat 16 gap := BitVec.eq_of_toNat_eq (by simpa using hw)
  rw [exec_edge_armed _ harmed hb, hlast, captureWidth_timerCount]
  exact (exec_width_armed (s := { s with regs := s.regs.latch (timerCount origin (t + gap)) }) _ harmed).symm

end Sys2Proof.Machine
end

section
/-! PROOFS. The registers DECODE does not see: a relation kept by every register operation, between records that agree on what DECODE reads, is kept by DECODE, which emits the same key on both sides. -/

namespace Sys2Proof.Machine

/-- A relation between register records that no operation of DECODE can tell apart. -/
structure Unseen (R : Registers → Registers → Prop) : Prop where
  status : ∀ {r r'}, R r r' → r'.status = r.status
  repeatCount : ∀ {r r'}, R r r' → r'.repeatCount = r.repeatCount
  lowWidth : ∀ {r r'}, R r r' → r'.lowWidth = r.lowWidth
  bitCount : ∀ {r r'}, R r r' → r'.bitCount = r.bitCount
  lastValidCmd : ∀ {r r'}, R r r' → r'.lastValidCmd = r.lastValidCmd
  command : ∀ {r r'}, R r r' → r'.rxBuf.command = r.rxBuf.command
  commandInverted : ∀ {r r'}, R r r' → r'.rxBuf.commandInverted = r.rxBuf.commandInverted
  goto : ∀ {r r'} (st), R r r' → R (r.goto st) (r'.goto st)
  beginFrame : ∀ {r r'}, R r r' → R r.beginFrame r'.beginFrame
  rememberLow : ∀ {r r'} (w), R r r' → R (r.rememberLow w) (r'.rememberLow w)
  shiftBit : ∀ {r r'} (bit), R r r' → R (r.shiftBit bit) (r'.shiftBit bit)
  storeByte : ∀ {r r'}, R r r' → R r.storeByte r'.storeByte
  acceptFrame : ∀ {r r'} (c), R r r' → R (r.acceptFrame c) (r'.acceptFrame c)
  setRepeatCount : ∀ {r r'} (n), R r r' → R { r with repeatCount := n } { r' with repeatCount := n }

/-- Effects with the same key, on registers that are related. -/
def Effect.Related (R : Registers → Registers → Prop) (e e' : Effect) : Prop :=
  R e.regs e'.regs ∧ e'.key = e.key

section
variable {R : Registers → Registers → Prop} {r r' : Registers} (h : Unseen R) (hr : R r r')
include h hr

/-- The end of a frame reads the command bytes, which agree (R155, R156). -/
theorem Unseen.completeFrame (c : Config) :
    (completeFrame c r).Related R (completeFrame c r') := by
  have hsum : checksumOk r'.rxBuf = checksumOk r.rxBuf := by
    rw [checksumOk, h.command hr, h.commandInverted hr, checksumOk]
  unfold Machine.completeFrame
  rw [hsum, h.command hr]
  split
  · exact ⟨h.goto _ (h.acceptFrame c hr), rfl⟩
  · exact ⟨h.goto _ hr, rfl⟩

/-- An accepted bit is shifted, stored and counted on both sides (R153 to R158). -/
theorem Unseen.acceptBit (c : Config) (bit : Bool) :
    (acceptBit c bit r).Related R (acceptBit c bit r') := by
  have hstored := h.storeByte (h.shiftBit bit hr)
  simp only [Machine.acceptBit, h.bitCount hstored]
  split
  · exact h.completeFrame hstored c
  · exact ⟨h.goto _ hstored, rfl⟩

/-- REPEAT reads the count and the repeat command, which agree (R181, R182). -/
theorem Unseen.repeatMarker (c : Config) :
    (repeatMarker c r).Related R (repeatMarker c r') := by
  by_cases hmet : c.repeatFilter ≤ r.repeatCount.toNat
  · rw [repeatMarker_met hmet, repeatMarker_met (by rwa [h.repeatCount hr]), repeatCmd_eq, repeatCmd_eq,
      h.command hr, h.lastValidCmd hr]
    exact ⟨hr, rfl⟩
  · have hbelow := Nat.lt_of_not_le hmet
    rw [repeatMarker_below hbelow, repeatMarker_below (by rwa [h.repeatCount hr]), h.repeatCount hr]
    exact ⟨h.setRepeatCount _ hr, rfl⟩

/-- A width offered again writes the status alone (R142). -/
theorem Unseen.redoEffect (c : Config) (w : Ticks) :
    (redoEffect c w r).Related R (redoEffect c w r') := ⟨h.goto _ hr, rfl⟩

/-- DECODE keeps an unseen relation and its key, in each status. -/
theorem Unseen.decodePulse (c : Config) (w : Ticks) :
    (decodePulse c w r).Related R (decodePulse c w r') := by
  have hst' := h.status hr
  cases hst : r.status with
  | awaitLeaderLow =>
    rw [decodePulse_leaderLow_eq_redo c w hst, decodePulse_leaderLow_eq_redo c w (hst'.trans hst)]
    exact h.redoEffect hr c w
  | awaitLeaderHigh =>
    rw [decodePulse_leaderHigh c w hst, decodePulse_leaderHigh c w (hst'.trans hst)]
    obtain ⟨hmarker, hkey⟩ := h.repeatMarker hr c
    split
    · exact ⟨h.beginFrame hr, rfl⟩
    · split
      · exact ⟨h.goto _ hmarker, hkey⟩
      · exact ⟨h.goto _ hr, rfl⟩
  | awaitBitLow =>
    rw [decodePulse_bitLow c w hst, decodePulse_bitLow c w (hst'.trans hst)]
    split
    · exact ⟨h.rememberLow w hr, rfl⟩
    · exact h.redoEffect hr c w
  | awaitBitPair =>
    rw [decodePulse_bitPair c w hst, decodePulse_bitPair c w (hst'.trans hst), h.lowWidth hr]
    split
    · exact h.acceptBit hr c _
    · exact h.redoEffect hr c w

end

end Sys2Proof.Machine
end

section
/-! PROOFS. Captures and widths (R76, R121, R126): a latched capture is unseen by DECODE. -/

namespace Sys2Proof.Machine

/-- The byte store writes nothing a latch does. -/
theorem storeByte_latch (x : Ticks) (r : Registers) : (r.latch x).storeByte = r.storeByte.latch x := by
  unfold Registers.storeByte
  rw [Registers.latch_bitCount]
  cases byteSlot r.bitCount <;> rfl

/-- DECODE does not see what an EDGE latches. -/
theorem unseen_latch (x : Ticks) : Unseen fun r r' => r' = r.latch x where
  status := by rintro r _ rfl; rfl
  repeatCount := by rintro r _ rfl; rfl
  lowWidth := by rintro r _ rfl; rfl
  bitCount := by rintro r _ rfl; rfl
  lastValidCmd := by rintro r _ rfl; rfl
  command := by rintro r _ rfl; rfl
  commandInverted := by rintro r _ rfl; rfl
  goto := by rintro r _ st rfl; rfl
  beginFrame := by rintro r _ rfl; rfl
  rememberLow := by rintro r _ w rfl; rfl
  shiftBit := by rintro r _ bit rfl; rfl
  storeByte := by rintro r _ rfl; exact storeByte_latch x r
  acceptFrame := by rintro r _ c rfl; rfl
  setRepeatCount := by rintro r _ n rfl; rfl

/-- DECODE after a latch does what it does before, and the latch stays. -/
theorem decodePulse_latch (c : Config) (w x : Ticks) (r : Registers) :
    decodePulse c w (r.latch x) = ⟨(decodePulse c w r).regs.latch x, (decodePulse c w r).key⟩ := by
  obtain ⟨hregs, hkey⟩ := (unseen_latch x).decodePulse (r := r) rfl c w
  rw [← hregs, ← hkey]

/-- The capture of a pulse, past the baseline, does what the pulse's width does, and latches the cursor (R76, R121). -/
theorem instrEffect_capture_eq_width {cfg : Config} {r : Registers} (x : Ticks) (w : Nat)
    (hflag : cfg.baselineZeroSentinel = false) (harmed : r.armed = true) :
    instrEffect cfg (.edge (advance x w)) (r.latch x) =
      ⟨(instrEffect cfg (.width (BitVec.ofNat 16 w)) r).regs.latch (advance x w),
        (instrEffect cfg (.width (BitVec.ofNat 16 w)) r).key⟩ := by
  have hpast : baselinePending cfg (r.latch x) = false := by simp [baselinePending, hflag]
  have hrelatch : (r.latch x).latch (advance x w) = r.latch (advance x w) := rfl
  simp only [instrEffect, serializeWidth_decoded _ harmed]
  rw [serializeEdge_decoded (r := r.latch x) (advance x w) harmed hpast,
    Registers.latch_lastCapture, captureWidth_advance, hrelatch, decodePulse_latch]

/-- A machine whose serializer has latched a capture. -/
def State.latch (x : Ticks) (s : State) : State := { s with regs := s.regs.latch x }

@[simp] theorem State.latch_config (x : Ticks) (s : State) : (s.latch x).config = s.config := rfl
@[simp] theorem State.latch_regs (x : Ticks) (s : State) : (s.latch x).regs = s.regs.latch x := rfl

/-- With the flag set, a latch only moves `lastCapture`. -/
theorem State.latch_of_valid {s : State} (x : Ticks) (h : s.regs.baselineValid = true) :
    s.latch x = { s with regs := { s.regs with lastCapture := x } } := by
  rw [State.latch, Registers.latch, ← h]

/-- The width-driven stream of a list of pulses (R76). -/
def widthEvents (ws : List Nat) : List Instr := ws.map fun w => .width (BitVec.ofNat 16 w)

/-- One capture per pulse (R76). -/
theorem pulseEvents_length (x : Ticks) (ws : List Nat) : (pulseEvents x ws).length = ws.length := by
  induction ws generalizing x with
  | nil => rfl
  | cons w ws ih => simp [pulseEvents, ih]

/-- The two streams of a list of pulses, from a cursor latched and not latched, by induction on the list. -/
theorem run_captures_and_widths (ws : List Nat) (s : State) (x : Ticks) (hc : s.config.wellFormed = true)
    (hflag : s.config.baselineZeroSentinel = false) (harmed : s.regs.armed = true)
    (hvalid : s.regs.baselineValid = true) :
    ∃ u, u.regs.baselineValid = true ∧
      run (widthEvents ws).length (s.presentAll (widthEvents ws)) = .next u ∧
      run (pulseEvents x ws).length ((s.latch x).presentAll (pulseEvents x ws)) =
        .next (u.latch (advanceAll x ws)) := by
  induction ws generalizing s x with
  | nil => exact ⟨s, hvalid, rfl, rfl⟩
  | cons w ws ih =>
    obtain ⟨-, harmed', hvalid'⟩ := decodePulse_frame s.config (BitVec.ofNat 16 w) s.regs
    have he : instrEffect s.config (.width (BitVec.ofNat 16 w)) s.regs =
        decodePulse s.config (BitVec.ofNat 16 w) s.regs := serializeWidth_decoded _ harmed
    obtain ⟨u, hu, hwidths, hcaptures⟩ :=
      ih (s.finish (decodePulse s.config (BitVec.ofNat 16 w) s.regs)) (advance x w) hc hflag
        (harmed'.trans harmed) (hvalid'.trans hvalid)
    refine ⟨u, hu, ?_, ?_⟩
    · rw [widthEvents, List.map_cons, run_presentAll_cons hc, he]
      exact hwidths
    · rw [pulseEvents, run_presentAll_cons (s := s.latch x) hc, State.latch_config, State.latch_regs,
        instrEffect_capture_eq_width x w hflag harmed, he]
      exact hcaptures

/-- Settles O22: the state's own `lastCapture` is the cursor. -/
theorem capturesDecodeAsTheirWidths : Obligations.CapturesDecodeAsTheirWidths := by
  intro s ws hc hflag harmed hvalid
  obtain ⟨u, hu, hwidths, hcaptures⟩ :=
    run_captures_and_widths ws s s.regs.lastCapture hc hflag harmed hvalid
  rw [State.latch_of_valid _ hvalid, pulseEvents_length] at hcaptures
  rw [widthEvents, List.length_map] at hwidths
  exact ⟨_, u, hcaptures, hwidths, State.latch_of_valid _ hu⟩

end Sys2Proof.Machine
end

section
/-! PROOFS. The address bytes (R157): unseen by DECODE, by every event, and by every run. -/

namespace Sys2Proof.Machine

/-- A record whose address bytes are replaced. -/
def Registers.withAddress (a0 a1 : Byte) (r : Registers) : Registers :=
  { r with rxBuf := { r.rxBuf with addressLow := a0, addressHigh := a1 } }

/-- Two records that differ in the address bytes at most. -/
def SameButAddress (r r' : Registers) : Prop := ∃ a0 a1, r' = r.withAddress a0 a1

/-- A record differs from itself in nothing. -/
theorem SameButAddress.refl (r : Registers) : SameButAddress r r := ⟨_, _, rfl⟩

/-- A byte stored on both sides leaves at most the address bytes different (R154). -/
theorem SameButAddress.storeByte {r r' : Registers} (h : SameButAddress r r') :
    SameButAddress r.storeByte r'.storeByte := by
  obtain ⟨a0, a1, rfl⟩ := h
  cases hslot : byteSlot r.bitCount with
  | none =>
    rw [r.storeByte_of_no_slot hslot, (r.withAddress a0 a1).storeByte_of_no_slot hslot]
    exact ⟨a0, a1, rfl⟩
  | some k =>
    rw [r.storeByte_of_slot hslot, (r.withAddress a0 a1).storeByte_of_slot hslot]
    match k with
    | 0 => exact ⟨r.byteAcc, a1, rfl⟩
    | 1 => exact ⟨a0, r.byteAcc, rfl⟩
    | 2 => exact ⟨a0, a1, rfl⟩
    | 3 => exact ⟨a0, a1, rfl⟩

/-- DECODE does not see the address bytes. -/
theorem unseen_address : Unseen SameButAddress where
  status := by rintro r _ ⟨a0, a1, rfl⟩; rfl
  repeatCount := by rintro r _ ⟨a0, a1, rfl⟩; rfl
  lowWidth := by rintro r _ ⟨a0, a1, rfl⟩; rfl
  bitCount := by rintro r _ ⟨a0, a1, rfl⟩; rfl
  lastValidCmd := by rintro r _ ⟨a0, a1, rfl⟩; rfl
  command := by rintro r _ ⟨a0, a1, rfl⟩; rfl
  commandInverted := by rintro r _ ⟨a0, a1, rfl⟩; rfl
  goto := by rintro r _ st ⟨a0, a1, rfl⟩; exact ⟨a0, a1, rfl⟩
  beginFrame := by rintro r _ ⟨a0, a1, rfl⟩; exact ⟨a0, a1, rfl⟩
  rememberLow := by rintro r _ w ⟨a0, a1, rfl⟩; exact ⟨a0, a1, rfl⟩
  shiftBit := by rintro r _ bit ⟨a0, a1, rfl⟩; exact ⟨a0, a1, rfl⟩
  storeByte := SameButAddress.storeByte
  acceptFrame := by rintro r _ c ⟨a0, a1, rfl⟩; exact ⟨a0, a1, rfl⟩
  setRepeatCount := by rintro r _ n ⟨a0, a1, rfl⟩; exact ⟨a0, a1, rfl⟩

/-- A capture latched on both sides. -/
theorem SameButAddress.latch {r r' : Registers} (h : SameButAddress r r') (x : Ticks) :
    SameButAddress (r.latch x) (r'.latch x) := by
  obtain ⟨a0, a1, rfl⟩ := h
  exact ⟨a0, a1, rfl⟩

/-- START clears the address bytes with `START_CLEARS_REPEAT`, and keeps them without (R102). -/
theorem SameButAddress.start {r r' : Registers} (h : SameButAddress r r') (cfg : Config) :
    SameButAddress (instrEffect cfg .start r).regs (instrEffect cfg .start r').regs := by
  obtain ⟨a0, a1, rfl⟩ := h
  cases hclear : cfg.startClearsRepeat with
  | false =>
    refine ⟨a0, a1, ?_⟩
    simp only [instrEffect, hclear]
    rfl
  | true =>
    refine ⟨0#8, 0#8, ?_⟩
    simp only [instrEffect, hclear]
    rfl

/-- EDGE does not see the address bytes, in each of its three cases. -/
theorem SameButAddress.serializeEdge {r r' : Registers} (h : SameButAddress r r') (cfg : Config) (x : Ticks) :
    (serializeEdge cfg x r).Related SameButAddress (serializeEdge cfg x r') := by
  have hlatch := h.latch x
  obtain ⟨a0, a1, rfl⟩ := h
  cases harmed : r.armed with
  | false =>
    rw [serializeEdge_disarmed x harmed, serializeEdge_disarmed (r := r.withAddress a0 a1) x harmed]
    exact ⟨⟨a0, a1, rfl⟩, rfl⟩
  | true =>
    cases hb : baselinePending cfg r with
    | true =>
      rw [serializeEdge_baseline x harmed hb, serializeEdge_baseline (r := r.withAddress a0 a1) x harmed hb]
      exact ⟨hlatch, rfl⟩
    | false =>
      rw [serializeEdge_decoded x harmed hb, serializeEdge_decoded (r := r.withAddress a0 a1) x harmed hb]
      exact unseen_address.decodePulse hlatch cfg _

/-- WIDTH does not see the address bytes, in each of its two cases. -/
theorem SameButAddress.serializeWidth {r r' : Registers} (h : SameButAddress r r') (cfg : Config) (w : Ticks) :
    (serializeWidth cfg w r).Related SameButAddress (serializeWidth cfg w r') := by
  have harmed' : r'.armed = r.armed := by
    obtain ⟨a0, a1, rfl⟩ := h
    rfl
  cases harmed : r.armed with
  | false =>
    rw [serializeWidth_disarmed w harmed, serializeWidth_disarmed w (harmed'.trans harmed)]
    exact ⟨h, rfl⟩
  | true =>
    rw [serializeWidth_decoded w harmed, serializeWidth_decoded w (harmed'.trans harmed)]
    exact unseen_address.decodePulse h cfg w

/-- No event sees the address bytes. -/
theorem SameButAddress.instrEffect {r r' : Registers} (h : SameButAddress r r') (cfg : Config) (i : Instr) :
    (instrEffect cfg i r).Related SameButAddress (instrEffect cfg i r') := by
  cases i with
  | nop => exact ⟨h, rfl⟩
  | reset => exact ⟨.refl _, rfl⟩
  | start => exact ⟨h.start cfg, rfl⟩
  | stop =>
    obtain ⟨a0, a1, rfl⟩ := h
    exact ⟨⟨a0, a1, rfl⟩, rfl⟩
  | edge x => exact h.serializeEdge cfg x
  | width w => exact h.serializeWidth cfg w

/-- A machine whose address bytes are replaced. -/
def State.withAddress (a0 a1 : Byte) (s : State) : State := { s with regs := s.regs.withAddress a0 a1 }

/-- A step with the address bytes replaced answers the same state but for them. -/
theorem step_withAddress {s t : State} (a0 a1 : Byte) (hstep : step s = .next t) :
    ∃ b0 b1, step (s.withAddress a0 a1) = .next (t.withAddress b0 b1) := by
  obtain ⟨hc, ev, rest, i, hev, hd, rfl⟩ := step_next_cases hstep
  obtain ⟨⟨b0, b1, hregs⟩, hkey⟩ :=
    SameButAddress.instrEffect (r := s.regs) ⟨a0, a1, rfl⟩ s.config i
  refine ⟨b0, b1, ?_⟩
  rw [step_of_event (s := s.withAddress a0 a1) hc hev hd]
  simp only [State.finish, State.withAddress, hregs, hkey]

/-- Settles O43, by induction on the number of steps. -/
theorem addressBytesAreNeverTested : Obligations.AddressBytesAreNeverTested := by
  intro n
  induction n with
  | zero =>
    intro s t a0 a1 hrun
    obtain rfl : s = t := Host.Outcome.next.inj hrun
    exact ⟨a0, a1, rfl⟩
  | succ n ih =>
    intro s t a0 a1 hrun
    cases hstep : step s with
    | next s1 =>
      obtain ⟨b0, b1, hstep'⟩ := step_withAddress a0 a1 hstep
      rw [run_of_next n hstep] at hrun
      obtain ⟨d0, d1, hrun'⟩ := ih s1 t b0 b1 hrun
      exact ⟨d0, d1, (run_of_next n hstep').trans hrun'⟩
    | fault why =>
      rw [run_of_fault n hstep] at hrun
      cases hrun
    | refused why =>
      rw [run_of_refused n hstep] at hrun
      cases hrun

end Sys2Proof.Machine
end

section
/-! PROOFS. One DECODE call (R142, R154): the redo, and the bit that completes a byte. -/

namespace Sys2Proof.Machine

/-- A width offered to AwaitLeaderLow ends the call, whatever the other registers hold (R142, R143). -/
theorem dispatch_goto_leaderLow (c : Config) (w : Ticks) (r : Registers) :
    dispatch c w (r.goto .awaitLeaderLow) = .done (redoEffect c w r) := by
  rw [dispatch_leaderLow_done c w rfl, redoEffect]
  split <;> rfl

/-- AwaitLeaderHigh never asks for a redo (R146). -/
theorem dispatch_leaderHigh_ne_redo (c : Config) (w : Ticks) {r : Registers}
    (h : r.status = .awaitLeaderHigh) (r' : Registers) : dispatch c w r ≠ .redo r' := by
  simp only [dispatch, h, dispatchLeaderHigh]
  split
  · exact Dispatched.noConfusion
  · split <;> exact Dispatched.noConfusion

/-- AwaitBitLow asks for a redo exactly for a width outside its window (R148). -/
theorem dispatch_bitLow_redo_iff (c : Config) (w : Ticks) {r : Registers} (h : r.status = .awaitBitLow)
    (r' : Registers) :
    dispatch c w r = .redo r' ↔ ¬ c.bitLow.holds w.toNat ∧ r' = r.goto .awaitLeaderLow := by
  simp only [dispatch, h, dispatchBitLow, inWindow_iff, Window.holds]
  split
  · next hw => simp [hw]
  · next hw => simp [hw, eq_comm]

/-- AwaitBitPair asks for a redo exactly for a total in neither window (R152). -/
theorem dispatch_bitPair_redo_iff (c : Config) (w : Ticks) {r : Registers} (h : r.status = .awaitBitPair)
    (r' : Registers) :
    dispatch c w r = .redo r' ↔
      (¬ c.bit0.holds (c.total r.lowWidth w) ∧ ¬ c.bit1.holds (c.total r.lowWidth w)) ∧
        r' = r.goto .awaitLeaderLow := by
  rw [← pairBit_none_iff, ← pairTotal_eq_total]
  simp only [dispatch, h, dispatchBitPair]
  split
  · next hb => simp [hb]
  · next hb => simp [hb, eq_comm]

/-- Settles O23, by the status; the second dispatch is the one of AwaitLeaderLow. -/
theorem redoHappensOnceUnderLeaderLow : Obligations.RedoHappensOnceUnderLeaderLow := by
  intro c w r r'
  constructor
  · cases hst : r.status with
    | awaitLeaderLow => simp [dispatch_leaderLow_done c w hst]
    | awaitLeaderHigh => simp [dispatch_leaderHigh_ne_redo c w hst r']
    | awaitBitLow => simpa [Registers.goto] using dispatch_bitLow_redo_iff c w hst r'
    | awaitBitPair => simpa [Registers.goto] using dispatch_bitPair_redo_iff c w hst r'
  · intro h
    obtain rfl := dispatch_redo_status h
    exact ⟨redoEffect c w r, dispatch_goto_leaderLow c w r, rfl, decodePulse_of_redo h⟩

/-- The end of a frame keeps the byte under construction as the byte store leaves it (R154, R156). -/
theorem acceptBit_byteAcc (c : Config) (bit : Bool) (r : Registers) :
    (acceptBit c bit r).regs.byteAcc = (r.shiftBit bit).storeByte.byteAcc := by
  obtain ⟨-, h⟩ | ⟨-, -, h⟩ | ⟨-, -, h⟩ := acceptBit_cases c bit r <;> simp [h]

/-- No accepted bit writes the remembered low width (R153 to R156). -/
theorem acceptBit_lowWidth (c : Config) (bit : Bool) (r : Registers) :
    (acceptBit c bit r).regs.lowWidth = r.lowWidth := by
  obtain ⟨-, h⟩ | ⟨-, -, h⟩ | ⟨-, -, h⟩ := acceptBit_cases c bit r <;> simp [h]

/-- The bit after the last of a frame is awaited in AwaitLeaderLow, any other in AwaitBitLow (R156, R158). -/
theorem acceptBit_status (c : Config) (bit : Bool) (r : Registers) :
    (acceptBit c bit r).regs.status = if r.bitCount + 1#6 = 32#6 then .awaitLeaderLow else .awaitBitLow := by
  obtain ⟨hn, h⟩ | ⟨hn, -, h⟩ | ⟨hn, -, h⟩ := acceptBit_cases c bit r <;> simp [h, hn]

/-- A bit that is not the last of its frame emits nothing and keeps the repeat registers (R158). -/
theorem acceptBit_not_last (c : Config) (bit : Bool) {r : Registers} (h : r.bitCount + 1#6 ≠ 32#6) :
    acceptBit c bit r = ⟨(r.shiftBit bit).storeByte.goto .awaitBitLow, none⟩ := by
  simp [acceptBit, h]

/-- The last byte of a frame is the one in slot 3 (R154). -/
theorem bitCount_succ_eq_32_iff {n : BitVec 6} {k : Fin 4} (h : n.toNat + 1 = 8 * (k.val + 1)) :
    n + 1#6 = 32#6 ↔ k = 3 := by
  revert n k
  decide

/-- Settles O32: the store of R154, with the registers that the end of a frame leaves. -/
theorem byteBoundaryStoresTheByte : Obligations.ByteBoundaryStoresTheByte := by
  intro s w bit k harmed hstatus hcount hbit
  have he := decodePulse_bitPair_accept (w := w) hstatus hbit
  obtain ⟨hlast, harm, hvalid⟩ := decodePulse_frame s.config w s.regs
  have hstore := shiftBit_storeByte_boundary bit s.regs hcount
  rw [he] at hlast harm hvalid
  refine ⟨s.finish (acceptBit s.config bit s.regs), by rw [exec_width_armed w harmed, he], ?_, ?_, ?_,
    acceptBit_bitCount .., ?_, acceptBit_lowWidth .., hlast, harm, hvalid, ?_, rfl, rfl⟩
  · rw [← shiftIn_eq]
    exact acceptBit_slot _ _ hcount
  · intro j hj
    rw [State.finish_regs, acceptBit_rxBuf, hstore]
    exact RxBuf.slot_store_other _ _ hj.symm
  · rw [State.finish_regs, acceptBit_byteAcc, hstore]
  · simp only [State.finish_regs, acceptBit_status, bitCount_succ_eq_32_iff hcount]
  · intro hk
    rw [acceptBit_not_last _ _ fun h => hk ((bitCount_succ_eq_32_iff hcount).mp h)]
    simp

end Sys2Proof.Machine
end

section
/-! PROOFS. Causes (R24, R187, R216): what an event that drives a key, changes `lastValidCmd` or changes a slot has done. -/

namespace Sys2Proof.Machine

/-- Only an event that delivers a width drives a key. -/
theorem delivers_of_key {s : State} {i : Instr} {k : Byte}
    (h : (instrEffect s.config i s.regs).key = some k) :
    ∃ w, s.delivers i w ∧ instrEffect s.config i s.regs = decodePulse s.config w (s.regs.received i) := by
  obtain hw | e | e | ⟨-, e⟩ | ⟨-, e⟩ | ⟨-, e⟩ := instrEffect_cases s i
  · exact hw
  all_goals
    rw [e] at h
    cases h

/-- Settles O39: the width delivered ends a valid frame or is a marker at the filter. -/
theorem everyKeyHasItsCause : Obligations.EveryKeyHasItsCause := by
  intro s t k hstep hkey
  obtain ⟨-, ev, rest, i, hev, hd, rfl⟩ := step_next_cases hstep
  obtain ⟨w, hw, e⟩ := delivers_of_key hkey
  rw [State.finish_keyOut, e] at hkey
  refine ⟨ev, i, w, hev, hd, hw, ?_⟩
  rw [State.finish_regs, e]
  obtain ⟨hnone, -⟩ | ⟨hframe, hbits, hsum, hrep, hsome, -⟩ |
      ⟨hmarker, -, ⟨-, -, hnone⟩ | ⟨hmet, hrep, hsome⟩⟩ := decodePulse_key_cases s i w
  · rw [hnone] at hkey
    cases hkey
  · exact .inl ⟨hframe, hbits, hsum, hrep, Option.some.inj (hkey.symm.trans hsome)⟩
  · rw [hnone] at hkey
    cases hkey
  · rw [hsome] at hkey
    split at hkey
    · next hen => exact .inr ⟨hmarker, hmet, hen, hrep, (Option.some.inj hkey).symm⟩
    · cases hkey

/-- START's effect on `lastValidCmd`, by `START_CLEARS_REPEAT` (R102). -/
theorem start_lastValidCmd (cfg : Config) (r : Registers) :
    (instrEffect cfg .start r).regs.lastValidCmd = if cfg.startClearsRepeat then 0#8 else r.lastValidCmd := by
  cases h : cfg.startClearsRepeat <;> simp [instrEffect, h]

/-- With LASTVALID, a key carries the `lastValidCmd` its step leaves (R182, R187). -/
theorem key_eq_lastValidCmd {s : State} {i : Instr} {k : Byte} (hsrc : s.config.repeatSource = .lastvalid)
    (h : (instrEffect s.config i s.regs).key = some k) :
    k = (instrEffect s.config i s.regs).regs.lastValidCmd + s.config.keyBase := by
  obtain ⟨w, -, e⟩ := delivers_of_key h
  rw [e] at h ⊢
  obtain ⟨hnone, -⟩ | ⟨-, -, -, -, hsome, hcmd⟩ | ⟨-, hcmd, ⟨-, -, hnone⟩ | ⟨-, -, hsome⟩⟩ :=
    decodePulse_key_cases s i w
  · rw [hnone] at h
    cases h
  · rw [hcmd, if_pos hsrc]
    exact Option.some.inj (h.symm.trans hsome)
  · rw [hnone] at h
    cases h
  · rw [hsome, hsrc] at h
    rw [hcmd]
    split at h
    · exact (Option.some.inj h).symm
    · cases h

/-- With LASTVALID, `lastValidCmd` changes by a valid frame, RESET or a clearing START only (R102, R187). -/
theorem lastValidCmd_change {s : State} {i : Instr} (hsrc : s.config.repeatSource = .lastvalid)
    (h : (instrEffect s.config i s.regs).regs.lastValidCmd ≠ s.regs.lastValidCmd) :
    let e := instrEffect s.config i s.regs
    (∃ w, s.delivers i w ∧ s.completesFrame w ∧ e.regs.bitCount = 32#6 ∧
      e.regs.rxBuf.command.toNat + e.regs.rxBuf.commandInverted.toNat = 255 ∧
      e.regs.lastValidCmd = e.regs.rxBuf.command ∧
      e.key = some (e.regs.lastValidCmd + s.config.keyBase)) ∨
    ((i = .reset ∨ (i = .start ∧ s.config.startClearsRepeat = true)) ∧
      e.regs.lastValidCmd = 0#8 ∧ e.key = none) := by
  dsimp only
  obtain ⟨w, hw, e⟩ | e | e | ⟨hi, e⟩ | ⟨rfl, -⟩ | ⟨-, e⟩ := instrEffect_cases s i
  · rw [e] at h ⊢
    obtain ⟨-, -, hcmd⟩ | ⟨hframe, hbits, hsum, -, hsome, hcmd⟩ | ⟨-, hcmd, -⟩ := decodePulse_key_cases s i w
    · exact absurd hcmd h
    · rw [if_pos hsrc] at hcmd
      exact .inl ⟨w, hw, hframe, hbits, hsum, hcmd, by rw [hcmd, hsome]⟩
    · exact absurd hcmd h
  · exact absurd (by rw [e]) h
  · exact absurd (by simp [e]) h
  · exact .inr ⟨.inl hi, by rw [e]; rfl, by rw [e]⟩
  · rw [start_lastValidCmd] at h ⊢
    cases hclear : s.config.startClearsRepeat with
    | false => simp [hclear] at h
    | true => exact .inr ⟨.inr ⟨rfl, rfl⟩, rfl, rfl⟩
  · exact absurd (by simp [e]) h

/-- Settles O42: the next state holds the registers and the key of its event's effect. -/
theorem lastValidKeysPassedTheChecksum : Obligations.LastValidKeysPassedTheChecksum := by
  intro s t hsrc hstep
  obtain ⟨-, ev, rest, i, hev, hd, rfl⟩ := step_next_cases hstep
  exact ⟨fun k hk => key_eq_lastValidCmd hsrc hk, fun hne => ⟨ev, i, hev, hd, lastValidCmd_change hsrc hne⟩⟩

/-- A byte-boundary store happens only at the end of its slot's byte (R154). -/
theorem bitCount_of_byteSlot {n : BitVec 6} {k : Fin 4} (h : byteSlot (n + 1#6) = some k) :
    n.toNat + 1 = 8 * (k.val + 1) := by
  revert n k
  decide

/-- An accepted bit keeps every slot but that of the byte it completes (R153, R154). -/
theorem acceptBit_slot_cases (c : Config) (bit : Bool) (r : Registers) (k : Fin 4) :
    (acceptBit c bit r).regs.rxBuf.slot k = r.rxBuf.slot k ∨
    (r.bitCount.toNat + 1 = 8 * (k.val + 1) ∧
      (acceptBit c bit r).regs.rxBuf.slot k = shiftIn bit r.byteAcc) := by
  cases hslot : byteSlot (r.bitCount + 1#6) with
  | none =>
    left
    rw [acceptBit_rxBuf, (r.shiftBit bit).storeByte_of_no_slot hslot, Registers.shiftBit_rxBuf]
  | some i =>
    have hcount := bitCount_of_byteSlot hslot
    by_cases hik : i = k
    · subst hik
      exact .inr ⟨hcount, acceptBit_slot c bit hcount⟩
    · left
      rw [acceptBit_rxBuf, shiftBit_storeByte_boundary bit r hcount]
      exact RxBuf.slot_store_other _ _ hik

/-- DECODE writes the receive buffer by an accepted bit only. -/
theorem decodePulse_rxBuf_cases (c : Config) (w : Ticks) (r : Registers) :
    (decodePulse c w r).regs.rxBuf = r.rxBuf ∨
    (r.status = .awaitBitPair ∧ ∃ bit, c.takesBit bit (c.total r.lowWidth w) ∧
      decodePulse c w r = acceptBit c bit r) := by
  obtain ⟨-, e⟩ | ⟨-, -, e⟩ | ⟨-, -, -, e⟩ | ⟨-, -, -, e⟩ | ⟨-, -, e⟩ | ⟨-, -, e⟩ | ⟨-, -, e⟩ |
      ⟨hst, bit, hb, e⟩ := decodePulse_cases c w r
  · left
    rw [e]
    dsimp only
    split <;> rfl
  · exact .inl (by rw [e]; rfl)
  · left
    rw [e, repeatMarker_regs]
    rfl
  · exact .inl (by rw [e]; rfl)
  · exact .inl (by rw [e]; rfl)
  · exact .inl (by rw [e]; rfl)
  · exact .inl (by rw [e]; rfl)
  · exact .inr ⟨hst, bit, takesBit_of_pairBit hb, e⟩

/-- DECODE writes a slot only with the accepted bit that completes its byte (R150, R151, R154). -/
theorem decodePulse_slot_cases (c : Config) (w : Ticks) (r : Registers) (k : Fin 4) :
    let r' := (decodePulse c w r).regs
    r'.rxBuf.slot k = r.rxBuf.slot k ∨
    ∃ bit, r.status = .awaitBitPair ∧ c.takesBit bit (c.total r.lowWidth w) ∧
      r.bitCount.toNat + 1 = 8 * (k.val + 1) ∧ r'.bitCount = r.bitCount + 1#6 ∧
      r'.rxBuf.slot k = BitVec.ofNat 8 (r.byteAcc.toNat / 2 + (if bit then 128 else 0)) := by
  dsimp only
  obtain hkept | ⟨hst, bit, hbit, e⟩ := decodePulse_rxBuf_cases c w r
  · exact .inl (by rw [hkept])
  · rw [e]
    obtain hkept | ⟨hcount, hslot⟩ := acceptBit_slot_cases c bit r k
    · exact .inl hkept
    · exact .inr ⟨bit, hst, hbit, hcount, acceptBit_bitCount .., hslot.trans (shiftIn_eq bit _)⟩

/-- Every slot is 0 after reset (R34). -/
theorem RxBuf.slot_reset (k : Fin 4) : RxBuf.reset.slot k = 0#8 := by
  revert k
  decide

/-- START's effect on the receive buffer, by `START_CLEARS_REPEAT` (R102). -/
theorem start_rxBuf (cfg : Config) (r : Registers) :
    (instrEffect cfg .start r).regs.rxBuf = if cfg.startClearsRepeat then RxBuf.reset else r.rxBuf := by
  cases h : cfg.startClearsRepeat <;> simp [instrEffect, h]

/-- Settles O41, by what the event does: DECODE of the width it delivers, no more than the latch, or a control event's effect. -/
theorem slotsChangeOnlyAtByteBoundaries : Obligations.SlotsChangeOnlyAtByteBoundaries := by
  intro s i k
  refine ⟨_, exec_eq_finish i s, ?_⟩
  rw [State.finish_regs]
  obtain ⟨w, hw, e⟩ | e | e | ⟨hi, e⟩ | ⟨rfl, -⟩ | ⟨-, e⟩ := instrEffect_cases s i
  · rw [e]
    have hslot := decodePulse_slot_cases s.config w (s.regs.received i) k
    simp only [Registers.received_rxBuf, Registers.received_status, Registers.received_lowWidth,
      Registers.received_bitCount, Registers.received_byteAcc] at hslot
    obtain hkept | ⟨bit, hslot⟩ := hslot
    · exact .inl hkept
    · exact .inr (.inr (.inr ⟨w, bit, hw, hslot⟩))
  · exact .inl (by rw [e])
  · exact .inl (by rw [e, Registers.received_rxBuf])
  · exact .inr (.inl ⟨hi, by rw [e]; exact RxBuf.slot_reset k⟩)
  · rw [start_rxBuf]
    cases hclear : s.config.startClearsRepeat with
    | false => exact .inl rfl
    | true => exact .inr (.inr (.inl ⟨rfl, rfl, RxBuf.slot_reset k⟩))
  · exact .inl (by rw [e]; rfl)

end Sys2Proof.Machine
end

section
/-! PROOFS. Whole frames and markers (R52, R53, R76, R188, R245) under R8's default windows: the registers and keys after the widths of a bit, a byte, a frame and a repeat marker. -/

namespace Sys2Proof.Machine

/-- A run of presented events ends with the registers of `runEffect`, and has emitted its keys. -/
theorem run_presentAll_runEffect {s : State} (hc : s.config.wellFormed = true) (is : List Instr) :
    ∃ t, run is.length (s.presentAll is) = .next t ∧ t.regs = (runEffect s.config is s.regs).1 ∧
      t.keys = s.keys ++ (runEffect s.config is s.regs).2 ∧ t.events = s.events := by
  induction is generalizing s with
  | nil => exact ⟨s, rfl, rfl, (List.append_nil _).symm, rfl⟩
  | cons i is ih =>
    obtain ⟨t, hrun, hregs, hkeys, hevents⟩ := ih (s := s.finish (instrEffect s.config i s.regs)) hc
    refine ⟨t, (run_presentAll_cons hc i is).trans hrun, hregs, ?_, hevents⟩
    rw [hkeys, State.finish_keys, List.append_assoc]
    rfl

/-- An armed block decodes the first of a list of widths, then the others (R126). -/
theorem runEffect_width_cons {cfg : Config} {r : Registers} (harmed : r.armed = true) (w : Ticks)
    (is : List Instr) {e : Effect} (he : decodePulse cfg w r = e) :
    runEffect cfg (.width w :: is) r =
      ((runEffect cfg is e.regs).1, e.key.toList ++ (runEffect cfg is e.regs).2) := by
  have hi : instrEffect cfg (.width w) r = e := (serializeWidth_decoded w harmed).trans he
  simp only [runEffect, hi]

section
variable {cfg : Config} {r : Registers} (hwin : cfg.defaultWindows) (harmed : r.armed = true)
include hwin

/-- The widths of BIT0 and BIT1 stand for their bit (R76, R150, R151). -/
theorem takesBit_bitEvents (bit : Bool) :
    cfg.takesBit bit (cfg.total 56#16 (if bit then 169#16 else 56#16)) := by
  obtain ⟨-, -, -, -, h0, h1⟩ := hwin
  have htotal : cfg.total 56#16 (if bit then 169#16 else 56#16) = if bit then 225 else 112 := by
    cases bit <;> simp [Config.total]
  rw [htotal]
  cases bit <;> simp [Config.takesBit, Window.holds, h0, h1]

include harmed

/-- A bit pair is the accepted bit, its low width remembered (R147, R153). -/
theorem runEffect_bitEvents (hst : r.status = .awaitBitLow) (bit : Bool) :
    runEffect cfg (bitEvents bit) r =
      ((acceptBit cfg bit (r.rememberLow 56#16)).regs, (acceptBit cfg bit (r.rememberLow 56#16)).key.toList) := by
  have hlow : cfg.bitLow.holds (56#16).toNat := by
    obtain ⟨-, -, -, hbl, -⟩ := hwin
    simp [Window.holds, hbl]
  have hpair := decodePulse_bitPair_accept (r := r.rememberLow 56#16) rfl (takesBit_bitEvents hwin bit)
  rw [bitEvents, runEffect_width_cons harmed _ _ (decodePulse_bitLow_accept hst hlow),
    runEffect_width_cons (r := r.rememberLow 56#16) harmed _ _ hpair]
  simp [runEffect]

/-- A frame's leader, from any invariant state but AwaitLeaderHigh: in AwaitBitLow its low width is no bit's, and in AwaitBitPair it makes no bit's total, so both offer it again (R142, R144). -/
theorem runEffect_leaderEvents (hinv : r.Inv cfg) (hst : r.status ≠ .awaitLeaderHigh) :
    runEffect cfg leaderEvents r = (r.beginFrame, []) := by
  obtain ⟨hll, hlh, -, hbl, hb0, hb1⟩ := hwin
  have hredo : decodePulse cfg 930#16 r = redoEffect cfg 930#16 r := by
    cases hst' : r.status with
    | awaitLeaderLow => exact decodePulse_leaderLow_eq_redo cfg _ hst'
    | awaitLeaderHigh => exact absurd hst' hst
    | awaitBitLow => exact decodePulse_bitLow_reject hst' (by simp [Window.holds, hbl])
    | awaitBitPair =>
      obtain ⟨-, -, -, hlow, -⟩ := hinv
      have hmax : r.lowWidth.toNat ≤ 100 := by simpa [hbl] using (hlow hst').2
      have htotal : cfg.total r.lowWidth 930#16 = r.lowWidth.toNat + 930 := by
        simp only [Config.total, BitVec.toNat_ofNat]
        split <;> omega
      refine decodePulse_bitPair_reject hst' ?_ ?_ <;> simp only [Window.holds, htotal, hb0, hb1] <;> omega
  have hlead : redoEffect cfg 930#16 r = ⟨r.goto .awaitLeaderHigh, none⟩ := by
    simp [redoEffect, inWindow, hll]
  have hframe := decodePulse_frameLeader (r := r.goto .awaitLeaderHigh) (c := cfg) (w := 465#16) rfl
    (by simp [Window.holds, hlh])
  rw [leaderEvents, runEffect_width_cons harmed _ _ (hredo.trans hlead),
    runEffect_width_cons (r := r.goto .awaitLeaderHigh) harmed _ _ hframe]
  rfl

end

/-- The registers after a bit pair that completes no byte. -/
def Registers.takeBit (r : Registers) (bit : Bool) : Registers :=
  ((r.rememberLow 56#16).shiftBit bit).goto .awaitBitLow

/-- The bits within a byte are shifted in one after the other, with no key (R153). -/
theorem runEffect_bits_between {cfg : Config} (hwin : cfg.defaultWindows) (bits : List Bool) {r : Registers}
    (harmed : r.armed = true) (hst : r.status = .awaitBitLow) (hn : r.bitCount.toNat % 8 + bits.length < 8) :
    runEffect cfg (bits.flatMap bitEvents) r = (bits.foldl Registers.takeBit r, []) := by
  induction bits generalizing r with
  | nil => rfl
  | cons bit bits ih =>
    rw [List.length_cons] at hn
    have hbetween : (r.bitCount.toNat + 1) % 8 ≠ 0 := by omega
    have hcount : (r.takeBit bit).bitCount.toNat % 8 + bits.length < 8 := by
      simp only [Registers.takeBit, Registers.goto_bitCount, Registers.shiftBit_bitCount,
        Registers.rememberLow_bitCount, BitVec.toNat_add, BitVec.toNat_ofNat]
      omega
    have hpair : runEffect cfg (bitEvents bit) r = (r.takeBit bit, []) := by
      rw [runEffect_bitEvents hwin harmed hst, acceptBit_between (r := r.rememberLow 56#16) _ _ hbetween]
      rfl
    have hrest := ih (r := r.takeBit bit) harmed rfl hcount
    rw [List.flatMap_cons, runEffect_append, hpair, hrest]
    rfl

/-- The bits of a shifted byte: the new one on top, the others one place down (R153). -/
theorem getLsbD_shiftIn (bit : Bool) (acc : Byte) {i : Nat} (hi : i < 8) :
    (shiftIn bit acc).getLsbD i = if i = 7 then bit else acc.getLsbD (i + 1) := by
  revert i bit acc
  decide

/-- A byte's bits 0 to 6, in the order in which they arrive (R52). -/
def lowBits (b : Byte) : List Bool := (List.range 7).map b.getLsbD

/-- Eight bits shifted in, bit 0 first, are the byte, whatever stood there before (R52). -/
theorem shiftIn_byte (b acc : Byte) :
    shiftIn (b.getLsbD 7) ((lowBits b).foldl (fun a bit => shiftIn bit a) acc) = b := by
  apply BitVec.eq_of_getLsbD_eq
  intro i hi
  have hbits : lowBits b = [b.getLsbD 0, b.getLsbD 1, b.getLsbD 2, b.getLsbD 3, b.getLsbD 4, b.getLsbD 5,
    b.getLsbD 6] := rfl
  simp only [hbits, List.foldl_cons, List.foldl_nil]
  interval_cases i <;> simp (disch := decide) only [getLsbD_shiftIn] <;> rfl

/-- What the first seven bit pairs of a byte leave: seven bits counted, and assembled (R153). -/
theorem foldl_takeBit_lowBits (b : Byte) {r : Registers} (hst : r.status = .awaitBitLow) :
    (lowBits b).foldl Registers.takeBit r = { r with
      lowWidth := 56#16
      byteAcc := (lowBits b).foldl (fun a bit => shiftIn bit a) r.byteAcc
      bitCount := r.bitCount + 7#6 } := by
  have hcount : r.bitCount + 1#6 + 1#6 + 1#6 + 1#6 + 1#6 + 1#6 + 1#6 = r.bitCount + 7#6 := by
    simp only [BitVec.add_assoc]
    rfl
  rw [← hcount, hst]
  rfl

/-- A byte in its slot, and counted. -/
def Registers.withByte (k : Fin 4) (b : Byte) (r : Registers) : Registers :=
  { r with
    rxBuf := r.rxBuf.store k b
    lowWidth := 56#16
    byteAcc := 0x00#8
    bitCount := BitVec.ofNat 6 (8 * (k.val + 1)) }

/-- What follows a byte: the end of the frame after byte 3, the next byte after any other (R155, R158). -/
def byteEffect (cfg : Config) (k : Fin 4) (b : Byte) (r : Registers) : Effect :=
  if k = 3 then completeFrame cfg (r.withByte k b) else ⟨r.withByte k b, none⟩

/-- The frame's end takes no notice of the status it starts in (R155). -/
theorem completeFrame_goto (cfg : Config) (st : Status) (r : Registers) :
    completeFrame cfg (r.goto st) = completeFrame cfg r := by
  unfold completeFrame
  rw [Registers.goto_rxBuf]
  split <;> rfl

/-- The eighth bit pair of byte `k` stores the byte (R154). -/
theorem acceptBit_byte (cfg : Config) {k : Fin 4} (b : Byte) {r : Registers}
    (hst : r.status = .awaitBitLow) (hcount : r.bitCount.toNat = 8 * k.val) :
    acceptBit cfg (b.getLsbD 7) (((lowBits b).foldl Registers.takeBit r).rememberLow 56#16) =
      byteEffect cfg k b r := by
  have hk := k.isLt
  have hbits : r.bitCount = BitVec.ofNat 6 (8 * k.val) := BitVec.eq_of_toNat_eq (by simp; omega)
  have hlast : (r.bitCount + 7#6).toNat + 1 = 8 * (k.val + 1) := by
    simp only [BitVec.toNat_add, BitVec.toNat_ofNat]
    omega
  have hcount' : r.bitCount + 7#6 + 1#6 = BitVec.ofNat 6 (8 * (k.val + 1)) := by
    apply BitVec.eq_of_toNat_eq
    simp only [BitVec.toNat_add, BitVec.toNat_ofNat]
    omega
  have hstored : ((((lowBits b).foldl Registers.takeBit r).rememberLow 56#16).shiftBit (b.getLsbD 7)).storeByte =
      (r.withByte k b).goto .awaitBitPair := by
    rw [foldl_takeBit_lowBits b hst, shiftBit_storeByte_boundary (k := k) _ _ hlast]
    simp only [Registers.rememberLow, shiftIn_byte, hcount']
    rfl
  have hend : (r.withByte k b).bitCount = 32#6 ↔ k = 3 := by
    rw [← bitCount_succ_eq_32_iff hlast, hcount']
    rfl
  simp only [acceptBit, byteEffect, hstored, Registers.goto_bitCount, hend, completeFrame_goto]
  split
  · rfl
  · rw [← hst]
    rfl

/-- The 16 widths of BYTE, from the start of byte `k` (R52, R154). -/
theorem runEffect_byteEvents {cfg : Config} (hwin : cfg.defaultWindows) {k : Fin 4} (b : Byte) {r : Registers}
    (harmed : r.armed = true) (hst : r.status = .awaitBitLow) (hcount : r.bitCount.toNat = 8 * k.val) :
    runEffect cfg (byteEvents b) r =
      ((byteEffect cfg k b r).regs, (byteEffect cfg k b r).key.toList) := by
  have hevents : byteEvents b = (lowBits b).flatMap bitEvents ++ bitEvents (b.getLsbD 7) := rfl
  have hlen : (lowBits b).length = 7 := rfl
  have hseven := runEffect_bits_between hwin (lowBits b) harmed hst (by omega)
  have hlast := runEffect_bitEvents (r := (lowBits b).foldl Registers.takeBit r) hwin
    (by rw [foldl_takeBit_lowBits b hst]; exact harmed) (by rw [foldl_takeBit_lowBits b hst]; exact hst)
    (b.getLsbD 7)
  rw [hevents, runEffect_append, hseven, hlast, acceptBit_byte cfg b hst hcount]
  rfl

/-- The end of a frame leaves the received bytes and their count (R155, R156). -/
theorem completeFrame_received (cfg : Config) (r : Registers) :
    (completeFrame cfg r).regs.rxBuf = r.rxBuf ∧ (completeFrame cfg r).regs.bitCount = r.bitCount ∧
    (completeFrame cfg r).regs.byteAcc = r.byteAcc := by
  unfold completeFrame
  split <;> simp

/-- A byte is in its slot and counted, whether or not it ends the frame. -/
theorem byteEffect_received (cfg : Config) (k : Fin 4) (b : Byte) (r : Registers) :
    (byteEffect cfg k b r).regs.rxBuf = r.rxBuf.store k b ∧
    (byteEffect cfg k b r).regs.bitCount = BitVec.ofNat 6 (8 * (k.val + 1)) ∧
    (byteEffect cfg k b r).regs.byteAcc = 0#8 := by
  unfold byteEffect
  split
  · exact completeFrame_received cfg _
  · exact ⟨rfl, rfl, rfl⟩

/-- Settles O35: the byte's 16 widths, from the start of its position. -/
theorem byteArrivesLsbFirst : Obligations.ByteArrivesLsbFirst := by
  intro s b k hc hwin harmed hst hcount
  obtain ⟨t, hrun, hregs, -, hevents⟩ := run_presentAll_runEffect hc (byteEvents b)
  rw [runEffect_byteEvents hwin b harmed hst hcount] at hregs
  obtain ⟨hbuf, hbits, hacc⟩ := byteEffect_received s.config k b s.regs
  have hk := k.isLt
  refine ⟨t, hrun, by rw [hregs, hbuf], ?_, by rw [hregs, hacc], hevents⟩
  rw [hregs, hbits, BitVec.toNat_ofNat]
  omega

/-- A whole frame received, before its checksum is tested. -/
def Registers.frameReceived (a0 a1 c ci : Byte) (r : Registers) : Registers :=
  { r with rxBuf := ⟨a0, a1, c, ci⟩, lowWidth := 56#16, byteAcc := 0x00#8, bitCount := 32#6 }

/-- The 66 widths of FRAME, from any invariant state but AwaitLeaderHigh: the leader, then the four bytes in their slots. -/
theorem runEffect_frameEvents {cfg : Config} {r : Registers} (hwin : cfg.defaultWindows)
    (harmed : r.armed = true) (hinv : r.Inv cfg) (hst : r.status ≠ .awaitLeaderHigh) (a0 a1 c ci : Byte) :
    runEffect cfg (frameEvents a0 a1 c ci) r =
      ((completeFrame cfg (r.frameReceived a0 a1 c ci)).regs,
        (completeFrame cfg (r.frameReceived a0 a1 c ci)).key.toList) := by
  have h0 : runEffect cfg (byteEvents a0) r.beginFrame = (r.beginFrame.withByte 0 a0, []) :=
    runEffect_byteEvents (k := 0) (r := r.beginFrame) hwin a0 harmed rfl rfl
  have h1 : runEffect cfg (byteEvents a1) (r.beginFrame.withByte 0 a0) =
      ((r.beginFrame.withByte 0 a0).withByte 1 a1, []) :=
    runEffect_byteEvents (k := 1) (r := r.beginFrame.withByte 0 a0) hwin a1 harmed rfl rfl
  have h2 : runEffect cfg (byteEvents c) ((r.beginFrame.withByte 0 a0).withByte 1 a1) =
      (((r.beginFrame.withByte 0 a0).withByte 1 a1).withByte 2 c, []) :=
    runEffect_byteEvents (k := 2) (r := (r.beginFrame.withByte 0 a0).withByte 1 a1) hwin c harmed rfl rfl
  have h3 := runEffect_byteEvents (k := 3) (r := ((r.beginFrame.withByte 0 a0).withByte 1 a1).withByte 2 c)
    hwin ci harmed rfl rfl
  have hend : byteEffect cfg 3 ci (((r.beginFrame.withByte 0 a0).withByte 1 a1).withByte 2 c) =
      completeFrame cfg (r.frameReceived a0 a1 c ci) :=
    completeFrame_goto cfg .awaitBitLow (r.frameReceived a0 a1 c ci)
  rw [hend] at h3
  simp only [frameEvents, runEffect_append, runEffect_leaderEvents hwin harmed hinv hst, h0, h1, h2, h3,
    List.nil_append]

/-- The registers after a valid frame (R155, R156). -/
def Registers.afterValidFrame (cfg : Config) (a0 a1 c ci : Byte) (r : Registers) : Registers :=
  ((r.frameReceived a0 a1 c ci).acceptFrame cfg).goto .awaitLeaderLow

/-- The end of a frame by the sum of its command bytes (R155, R156, R159). -/
theorem completeFrame_frameReceived (cfg : Config) (a0 a1 c ci : Byte) (r : Registers) :
    completeFrame cfg (r.frameReceived a0 a1 c ci) =
      if c.toNat + ci.toNat = 255 then
        ⟨r.afterValidFrame cfg a0 a1 c ci, some (keyCode cfg c)⟩
      else ⟨(r.frameReceived a0 a1 c ci).goto .awaitLeaderLow, none⟩ := by
  simp only [completeFrame, checksumOk_iff]
  rfl

/-- Settles O36, by the 66 widths of FRAME and the checksum of the buffer they fill. -/
theorem frameEmitsItsKeyIffChecksumPasses : Obligations.FrameEmitsItsKeyIffChecksumPasses := by
  intro s a0 a1 c ci hc hwin hinv harmed hst
  obtain ⟨t, hrun, hregs, hkeys, hevents⟩ := run_presentAll_runEffect hc (frameEvents a0 a1 c ci)
  rw [runEffect_frameEvents hwin harmed hinv hst, completeFrame_frameReceived] at hregs hkeys
  refine ⟨t, hrun, ?_, ?_, hevents⟩
  · rw [hregs]
    by_cases hsum : c.toNat + ci.toNat = 255
    · simp only [hsum, if_true, true_and, Registers.afterValidFrame, Registers.acceptFrame_eq]
      rfl
    · simp only [hsum, if_false, false_and]
      rfl
  · rw [hkeys]
    split <;> rfl

/-- The widths of FRAME after its first. -/
def frameTail (a0 a1 c ci : Byte) : List Instr :=
  .width 465#16 :: (byteEvents a0 ++ byteEvents a1 ++ byteEvents c ++ byteEvents ci)

/-- FRAME starts with the leader's low pulse (R76). -/
theorem frameEvents_eq_cons (a0 a1 c ci : Byte) :
    frameEvents a0 a1 c ci = .width 930#16 :: frameTail a0 a1 c ci := by
  simp [frameEvents, leaderEvents, frameTail]

/-- A byte is made of two widths (R76). -/
theorem mem_byteEvents {b : Byte} {i : Instr} (h : i ∈ byteEvents b) : i = .width 56#16 ∨ i = .width 169#16 := by
  obtain ⟨k, -, hi⟩ := List.mem_flatMap.mp h
  cases hb : b.getLsbD k <;> simp [bitEvents, hb] at hi <;> tauto

/-- No width of a frame but its first is a leader-low pulse. -/
theorem frameTail_not_leaderLow {cfg : Config} (hwin : cfg.defaultWindows) {a0 a1 c ci : Byte} {i : Instr}
    (h : i ∈ frameTail a0 a1 c ci) : ∃ w : Ticks, i = .width w ∧ ¬ cfg.leaderLow.holds w.toNat := by
  obtain ⟨hll, -⟩ := hwin
  obtain rfl | rfl | rfl : i = .width 465#16 ∨ i = .width 56#16 ∨ i = .width 169#16 := by
    simp only [frameTail, List.mem_cons, List.mem_append] at h
    obtain h | ((h | h) | h) | h := h
    · exact .inl h
    all_goals exact .inr (mem_byteEvents h)
  all_goals exact ⟨_, rfl, by simp [Window.holds, hll]⟩

/-- A width that is no leader-low pulse has no effect in AwaitLeaderLow (R143). -/
theorem instrEffect_not_leaderLow {cfg : Config} {r : Registers} {w : Ticks} (harmed : r.armed = true)
    (hst : r.status = .awaitLeaderLow) (hw : ¬ cfg.leaderLow.holds w.toNat) :
    instrEffect cfg (.width w) r = ⟨r, none⟩ := by
  rw [instrEffect, serializeWidth_decoded w harmed, decodePulse_leaderLow cfg w hst, inWindow_of_not_holds hw]
  rfl

/-- Settles O37: the leader's low pulse is consumed by the mismatch (R146), and nothing after it is a leader. -/
theorem frameAfterStrayLeaderIsLost : Obligations.FrameAfterStrayLeaderIsLost := by
  intro s a0 a1 c ci hc hwin harmed hst
  have hlost : instrEffect s.config (.width 930#16) s.regs = ⟨s.regs.goto .awaitLeaderLow, none⟩ := by
    obtain ⟨-, hlh, hrp, -⟩ := hwin
    exact (serializeWidth_decoded _ harmed).trans
      (decodePulse_abandon hst (by simp [Window.holds, hlh]) (by simp [Window.holds, hrp]))
  have hrest := run_presentAll_of_no_effect (is := frameTail a0 a1 c ci)
    (s := { s with regs := s.regs.goto .awaitLeaderLow, keyOut := none }) hc rfl fun i hi => by
      obtain ⟨w, rfl, hw⟩ := frameTail_not_leaderLow hwin hi
      exact instrEffect_not_leaderLow harmed rfl hw
  have hcons := run_presentAll_cons hc (.width 930#16) (frameTail a0 a1 c ci)
  rw [← frameEvents_eq_cons, hlost, State.finish_no_key, hrest] at hcons
  exact hcons

/-- REPEAT neither reads nor writes the status (R181). -/
theorem repeatMarker_goto (cfg : Config) (st : Status) (r : Registers) :
    repeatMarker cfg (r.goto st) = ⟨(repeatMarker cfg r).regs.goto st, (repeatMarker cfg r).key⟩ := by
  have hmet : filterMet cfg (r.goto st) = filterMet cfg r := rfl
  unfold repeatMarker
  rw [hmet]
  split <;> rfl

/-- REPEAT ends in the status it starts in (R181). -/
theorem repeatMarker_status (cfg : Config) (r : Registers) : (repeatMarker cfg r).regs.status = r.status := by
  rw [repeatMarker_regs]

/-- RMARK is one marker to REPEAT, and ends where it began (R145). -/
theorem runEffect_repeatMarkEvents {cfg : Config} {r : Registers} (hwin : cfg.defaultWindows)
    (harmed : r.armed = true) (hst : r.status = .awaitLeaderLow) :
    runEffect cfg repeatMarkEvents r = ((repeatMarker cfg r).regs, (repeatMarker cfg r).key.toList) := by
  obtain ⟨hll, hlh, hrp, -⟩ := hwin
  have hlead : decodePulse cfg 930#16 r = ⟨r.goto .awaitLeaderHigh, none⟩ := by
    simp [decodePulse_leaderLow cfg _ hst, inWindow, hll]
  have hmarker := decodePulse_marker (r := r.goto .awaitLeaderHigh) (c := cfg) (w := 225#16) rfl
    (by simp [Window.holds, hlh]) (by simp [Window.holds, hrp])
  have hback : ((repeatMarker cfg r).regs.goto .awaitLeaderHigh).goto .awaitLeaderLow = (repeatMarker cfg r).regs :=
    Registers.goto_self ((repeatMarker_status cfg r).trans hst)
  rw [repeatMarker_goto] at hmarker
  rw [repeatMarkEvents, runEffect_width_cons harmed _ _ hlead,
    runEffect_width_cons (r := r.goto .awaitLeaderHigh) harmed _ _ hmarker, hback]
  simp [runEffect]

/-- Markers from AwaitLeaderLow: those below the filter are counted, and every other one emits the repeat key (R181, R185). -/
theorem runEffect_repeatMarks {cfg : Config} (hwin : cfg.defaultWindows) (hfilter : cfg.repeatFilter ≤ 255)
    (hemit : cfg.repeatEmitEn = true) (n : Nat) {r : Registers} (harmed : r.armed = true)
    (hst : r.status = .awaitLeaderLow) (hcount : r.repeatCount.toNat ≤ cfg.repeatFilter) :
    runEffect cfg (List.replicate n repeatMarkEvents).flatten r =
      ({ r with repeatCount := BitVec.ofNat 8 (min (r.repeatCount.toNat + n) cfg.repeatFilter) },
        List.replicate (r.repeatCount.toNat + n - cfg.repeatFilter) (keyCode cfg (repeatCmd cfg r))) := by
  induction n generalizing r with
  | zero => simp [runEffect, hcount]
  | succ n ih =>
    rw [List.replicate_succ, List.flatten_cons, runEffect_append, runEffect_repeatMarkEvents hwin harmed hst]
    by_cases hmet : cfg.repeatFilter ≤ r.repeatCount.toNat
    · have hn : r.repeatCount.toNat + (n + 1) - cfg.repeatFilter =
          (r.repeatCount.toNat + n - cfg.repeatFilter) + 1 := by omega
      have hmin : min (r.repeatCount.toNat + (n + 1)) cfg.repeatFilter =
          min (r.repeatCount.toNat + n) cfg.repeatFilter := by omega
      rw [repeatMarker_met hmet, if_pos hemit, ih harmed hst hcount, hn, hmin, List.replicate_succ]
      rfl
    · have hbelow := Nat.lt_of_not_le hmet
      have hnext : (r.repeatCount + 1#8).toNat = r.repeatCount.toNat + 1 := by
        simp only [BitVec.toNat_add, BitVec.toNat_ofNat]
        omega
      rw [repeatMarker_below hbelow, ih (r := { r with repeatCount := r.repeatCount + 1#8 }) harmed hst
        (hnext.trans_le hbelow)]
      simp only [hnext, Nat.add_assoc, Nat.add_comm 1 n]
      rfl

/-- A valid frame leaves its command as the repeat command, in both `REPEAT_SOURCE` modes (R182, R187). -/
theorem repeatCmd_afterValidFrame (cfg : Config) (a0 a1 c ci : Byte) (r : Registers) :
    repeatCmd cfg (r.afterValidFrame cfg a0 a1 c ci) = c := by
  cases hsrc : cfg.repeatSource <;>
    simp [repeatCmd, hsrc, Registers.afterValidFrame, Registers.frameReceived]

/-- Settles O38: the frame leaves its command as the repeat command and the count at 0, and the markers follow. -/
theorem repeatKeysFollowTheFilter : Obligations.RepeatKeysFollowTheFilter := by
  intro s a0 a1 c ci n hc hwin hemit hinv harmed hst hsum
  obtain ⟨-, -, -, -, -, -, hfilter, -⟩ := (Config.wellFormed_iff s.config).mp hc
  have hmarks := runEffect_repeatMarks (r := s.regs.afterValidFrame s.config a0 a1 c ci) hwin hfilter hemit n
    harmed rfl (Nat.zero_le _)
  have hzero : (s.regs.afterValidFrame s.config a0 a1 c ci).repeatCount.toNat = 0 := rfl
  rw [repeatCmd_afterValidFrame, hzero, Nat.zero_add] at hmarks
  have hframe := runEffect_frameEvents hwin harmed hinv hst a0 a1 c ci
  rw [completeFrame_frameReceived, if_pos hsum] at hframe
  obtain ⟨t, hrun, hregs, hkeys, hevents⟩ :=
    run_presentAll_runEffect hc (frameEvents a0 a1 c ci ++ (List.replicate n repeatMarkEvents).flatten)
  have hlen : (frameEvents a0 a1 c ci ++ (List.replicate n repeatMarkEvents).flatten).length = 66 + 2 * n := by
    have hframe66 : (frameEvents a0 a1 c ci).length = 66 := rfl
    have hmark2 : repeatMarkEvents.length = 2 := rfl
    simp [hframe66, hmark2, Nat.mul_comm]
  rw [hlen] at hrun
  rw [runEffect_append, hframe, hmarks] at hregs hkeys
  refine ⟨t, hrun, ?_, ?_, hevents⟩
  · rw [hkeys, List.append_assoc]
    rfl
  · rw [hregs]
    dsimp only
    rw [BitVec.toNat_ofNat]
    omega

end Sys2Proof.Machine
end
